-- ==== Sys2Proof/Word.lean ====
section
/-!
DEFINITION. The number and byte types of the block: the 32-bit register word (00_scope.md R13), the byte, the
four-byte word of the key schedule, which is also a column of the state matrix (10_state.md R36, R37), and the
16-byte block (00_scope.md R11).
-/

namespace Sys2Proof

/-- A byte; as an element of GF(2^8) it is read as a polynomial (00_scope.md R15, 40_gf256.md R140). -/
abbrev Byte := BitVec 8

/-- A register value or a command word (00_scope.md R13). -/
abbrev Word := BitVec 32

/-- Four bytes: a word of the key schedule (41_key_schedule.md R170; `r0` is its first byte) and a column of
the state matrix (10_state.md R36; `r0` is row 0). -/
structure Column where
  r0 : Byte
  r1 : Byte
  r2 : Byte
  r3 : Byte
deriving DecidableEq, Repr

/-- A 16-byte block as the column-major 4×4 matrix of 10_state.md R36: byte `r + 4c` stands in row `r` of
column `c`. -/
structure Block where
  c0 : Column
  c1 : Column
  c2 : Column
  c3 : Column
deriving DecidableEq, Repr

/-- The column of four zero bytes. -/
def Column.zero : Column := ⟨0, 0, 0, 0⟩

/-- The block of sixteen zero bytes. -/
def Block.zero : Block := ⟨.zero, .zero, .zero, .zero⟩

/-- The round-key store RK[0..14] (10_state.md R37). -/
abbrev RoundKeys := Vector Block 15

end Sys2Proof
end

