-- ==== Sys2Proof/Config.lean ====
section
/-!
DEFINITION. The implementation parameters that the spec leaves OPEN (00_scope.md R13, 20_memory.md R83,
92_eei_decisions.md D3, 93_implementation_defined.md I8 and I9).
-/

namespace Sys2Proof

/-- The parameters of one implementation. State carries them so that a statement about every state is a statement
about every value of them; no action of the host and no command changes them. -/
structure Config where
  /-- `BUF_SIZE`, the number of bytes of BUF (00_scope.md R13). -/
  bufSize : Nat
  /-- `REG_BASE`, the platform's bus address of register 0; no rule uses it (93_implementation_defined.md I9). -/
  regBase : Nat
  /-- `BUF_BASE`, the platform's bus address of BUF byte 0; no rule uses it (93_implementation_defined.md I9). -/
  bufBase : Nat
deriving DecidableEq, Repr

/-- The default `BUF_SIZE` of 00_scope.md R13; the two bus addresses have no default in the spec
(DESIGN CHOICE 0, log entry 3: nothing reads them). -/
def Config.default : Config := { bufSize := 65536, regBase := 0, bufBase := 0 }

end Sys2Proof
end

