-- ==== Sys2Proof/Syntax.lean ====
section
/-!
DEFINITION. The commands (one constructor per row of spec/opcode_table.json), the assembler's source line
(30_encoding.md R109) and the actions of the host (10_state.md R51, 20_memory.md R73, 70_reset_and_hazards.md R370).
-/

namespace Sys2Proof

/-- A decoded command, one constructor per row of the opcode table (30_encoding.md R105). The operand types are the
fields of 30_encoding.md R103: bytes `A` and `B`, and the 4-bit round-key index `RK`. -/
inductive Instr where
  /-- 47_system.md R320 -/
  | nop
  /-- 40_gf256.md R150 -/
  | gfAdd (a b : Byte)
  /-- 40_gf256.md R151 -/
  | gfDouble (a : Byte)
  /-- 40_gf256.md R152 -/
  | gfMul (a b : Byte)
  /-- 40_gf256.md R153 -/
  | gfSbox (a : Byte)
  /-- 40_gf256.md R154 -/
  | gfInvSbox (a : Byte)
  /-- 40_gf256.md R155 -/
  | gfRcon (i : Byte)
  /-- 41_key_schedule.md R180 -/
  | keyExpand
  /-- 41_key_schedule.md R181 -/
  | rkStore (r : BitVec 4)
  /-- 42_round_transform.md R210 -/
  | stateLoad
  /-- 42_round_transform.md R211 -/
  | stateStore
  /-- 42_round_transform.md R212 -/
  | subBytes
  /-- 42_round_transform.md R213 -/
  | invSubBytes
  /-- 42_round_transform.md R214 -/
  | shiftRows
  /-- 42_round_transform.md R215 -/
  | invShiftRows
  /-- 42_round_transform.md R216 -/
  | mixColumns
  /-- 42_round_transform.md R217 -/
  | invMixColumns
  /-- 42_round_transform.md R218 -/
  | addRoundKey (r : BitVec 4)
  /-- 43_block_cipher.md R245 -/
  | encBlock
  /-- 43_block_cipher.md R246 -/
  | decBlock
  /-- 44_padding.md R265 -/
  | pad
  /-- 44_padding.md R266 -/
  | unpad
  /-- 45_modes.md R285 -/
  | encCbc
  /-- 45_modes.md R286 -/
  | decCbc
  /-- 45_modes.md R287 -/
  | encPcbc
  /-- 45_modes.md R288 -/
  | decPcbc
  /-- 45_modes.md R289 -/
  | encCfb
  /-- 45_modes.md R290 -/
  | decCfb
  /-- 45_modes.md R291 -/
  | encOfb
  /-- 45_modes.md R292 -/
  | decOfb
  /-- 45_modes.md R293 -/
  | encCtr
  /-- 45_modes.md R294 -/
  | decCtr
  /-- 45_modes.md R301 -/
  | ctrInc
deriving DecidableEq, Repr

/-- A data command, one that writes OUT_LEN: ENC_BLOCK, DEC_BLOCK, PAD, UNPAD, ENC_MODE and DEC_MODE
(00_scope.md R20, 10_state.md R47). -/
def Instr.isData : Instr → Bool
  | .encBlock | .decBlock | .pad | .unpad => true
  | .encCbc | .decCbc | .encPcbc | .decPcbc | .encCfb | .decCfb | .encOfb | .decOfb | .encCtr | .decCtr => true
  | .nop | .gfAdd _ _ | .gfDouble _ | .gfMul _ _ | .gfSbox _ | .gfInvSbox _ | .gfRcon _ => false
  | .keyExpand | .rkStore _ | .stateLoad | .stateStore => false
  | .subBytes | .invSubBytes | .shiftRows | .invShiftRows | .mixColumns | .invMixColumns => false
  | .addRoundKey _ | .ctrInc => false

/-- An operand of an assembler line: a number or a chaining-mode name (30_encoding.md R109). -/
inductive SourceOperand where
  | num (n : Nat)
  | mode (name : String)
deriving DecidableEq, Repr

/-- An assembler line: a mnemonic and its operands (30_encoding.md R109). -/
structure SourceLine where
  mnemonic : String
  operands : List SourceOperand
deriving DecidableEq, Repr

/-- What a reset leaves in the state whose value after reset the spec does not fix, as one draw of "any value"
(70_reset_and_hazards.md R370; 93_implementation_defined.md I2, I3, I4). -/
structure ResetDraw where
  /-- The 16 bytes STATE holds after the reset (I3). -/
  state : Block
  /-- The 15 entries the round-key store holds after the reset (I4). -/
  roundKeys : RoundKeys
  /-- Bytes of BUF after the reset; an address that it does not name reads as an unlisted one (I2). -/
  buf : List (Nat × Byte)
deriving DecidableEq, Repr

/-- One action on the block from outside, each an atomic step (10_state.md R32). -/
inductive HostAction where
  /-- `RegWrite(n, v)` (10_state.md R51); with `n` the number of CMD it issues the command word `v` (R41). -/
  | regWrite (n : BitVec 4) (v : Word)
  /-- `RegRead(n)` (10_state.md R51). -/
  | regRead (n : BitVec 4)
  /-- `BufWrite(a, v)` (20_memory.md R73). -/
  | bufWrite (a : Nat) (v : Byte)
  /-- `BufRead(a)` (20_memory.md R73). -/
  | bufRead (a : Nat)
  /-- The platform's reset event (70_reset_and_hazards.md R370), with the values it leaves where the spec fixes
  none. -/
  | reset (d : ResetDraw)
deriving DecidableEq, Repr

end Sys2Proof
end

