-- ==== Sys2Proof/WellFormed.lean ====
section
/-!
DEFINITION. The checks on what is written from outside: the parameters (00_scope.md R13), an assembler line
(30_encoding.md R109) and a host action (20_memory.md R73). A decoded command needs no check of its own: the types of
`Instr`'s operands are exactly the fields of 30_encoding.md R103.
-/

namespace Sys2Proof

/-- "constraint 64 ≤ BUF_SIZE ≤ 2^31" (00_scope.md R13). -/
def Config.wf (c : Config) : Bool := decide (64 ≤ c.bufSize) && decide (c.bufSize ≤ 2 ^ 31)

/-- The operand fits the byte fields A and B (30_encoding.md R109: an operand `a > 0xFF` is refused). -/
def fitsByte (n : Nat) : Bool := decide (n ≤ 0xFF)

/-- The operand fits the round-key index field (30_encoding.md R109: an operand `r > 15` is refused). -/
def fitsIndex (r : Nat) : Bool := decide (r ≤ 15)

/-- The five mode names of 30_encoding.md R104 and R109. -/
def isModeName (m : String) : Bool :=
  m == "CBC" || m == "PCBC" || m == "CFB" || m == "OFB" || m == "CTR"

/-- The operand forms of 30_encoding.md R109. -/
inductive OperandForm where
  | none
  | byte
  | twoBytes
  | index
  | mode
deriving DecidableEq, Repr

/-- The operand form of a mnemonic, the ten mode mnemonics and ENC_MODE and DEC_MODE among them
(30_encoding.md R105, R109); an unknown mnemonic has none. -/
def operandForm (m : String) : Option OperandForm :=
  if m ∈ ["NOP", "KEY_EXPAND", "STATE_LOAD", "STATE_STORE", "SUB_BYTES", "INV_SUB_BYTES", "SHIFT_ROWS",
      "INV_SHIFT_ROWS", "MIX_COLUMNS", "INV_MIX_COLUMNS", "ENC_BLOCK", "DEC_BLOCK", "PAD", "UNPAD", "CTR_INC"] then
    some .none
  else if m ∈ ["ENC_CBC", "DEC_CBC", "ENC_PCBC", "DEC_PCBC", "ENC_CFB", "DEC_CFB", "ENC_OFB", "DEC_OFB",
      "ENC_CTR", "DEC_CTR"] then
    some .none
  else if m ∈ ["GF_DOUBLE", "GF_SBOX", "GF_INV_SBOX", "GF_RCON"] then some .byte
  else if m ∈ ["GF_ADD", "GF_MUL"] then some .twoBytes
  else if m ∈ ["RK_STORE", "ADD_ROUND_KEY"] then some .index
  else if m ∈ ["ENC_MODE", "DEC_MODE"] then some .mode
  else Option.none

/-- What an assembler accepts (30_encoding.md R109): a known mnemonic with operands of its form, each fitting its
field, and a known mode name. -/
def SourceLine.wf (l : SourceLine) : Bool :=
  match operandForm l.mnemonic, l.operands with
  | some .none, [] => true
  | some .byte, [.num a] => fitsByte a
  | some .twoBytes, [.num a, .num b] => fitsByte a && fitsByte b
  | some .index, [.num r] => fitsIndex r
  | some .mode, [.mode m] => isModeName m
  | _, _ => false

/-- The host actions that the block's interface has (20_memory.md R73): a BUF access names an address below
BUF_SIZE. -/
def HostAction.wf (c : Config) : HostAction → Bool
  | .bufWrite a _ | .bufRead a => decide (a < c.bufSize)
  | .regWrite _ _ | .regRead _ | .reset _ => true

end Sys2Proof
end

