-- ==== Sys2Proof/Decode.lean ====
section
/-!
DEFINITION. The command word (30_encoding.md): its fields, the decoder, total on every 32-bit word and rejecting by
name, the encoder, and the assembler of R109.
-/

namespace Sys2Proof

/-- The six fields of a command word (30_encoding.md R100). -/
structure Fields where
  /-- bits 31:24 -/
  a : Byte
  /-- bits 23:16 -/
  b : Byte
  /-- bits 15:12 -/
  rk : BitVec 4
  /-- bit 11, reserved -/
  resv : BitVec 1
  /-- bits 10:8 -/
  mode : BitVec 3
  /-- bits 7:0 -/
  opc : Byte
deriving DecidableEq, Repr

/-- The fields of the word `v` (30_encoding.md R100). -/
def Fields.ofWord (v : Word) : Fields where
  a := v.extractLsb' 24 8
  b := v.extractLsb' 16 8
  rk := v.extractLsb' 12 4
  resv := v.extractLsb' 11 1
  mode := v.extractLsb' 8 3
  opc := v.extractLsb' 0 8

/-- The word that has the fields `f` (30_encoding.md R100). -/
def Fields.toWord (f : Fields) : Word :=
  f.a ++ f.b ++ f.rk ++ f.resv ++ f.mode ++ f.opc

/-- The fields beside OPC that an opcode uses (30_encoding.md R105, R106). -/
inductive FieldUse where
  | none
  | a
  | ab
  | rk
  | mode
deriving DecidableEq, Repr

/-- Every bit outside OPC and the used fields is 0 (30_encoding.md R101 step 2). -/
def Fields.reservedClear (u : FieldUse) (f : Fields) : Bool :=
  match u with
  | .none => f.a == 0 && f.b == 0 && f.rk == 0 && f.resv == 0 && f.mode == 0
  | .a => f.b == 0 && f.rk == 0 && f.resv == 0 && f.mode == 0
  | .ab => f.rk == 0 && f.resv == 0 && f.mode == 0
  | .rk => f.a == 0 && f.b == 0 && f.resv == 0 && f.mode == 0
  | .mode => f.a == 0 && f.b == 0 && f.rk == 0 && f.resv == 0

/-- Why a word decodes to no row: the step of 30_encoding.md R101 that finds it illegal. -/
inductive IllegalWord where
  /-- Step 1: OPC is not in the opcode map. -/
  | unassignedOpcode
  /-- Step 2: a bit outside OPC and the used fields is 1. -/
  | reservedBitSet
  /-- Step 3: MODE is 5, 6 or 7. -/
  | reservedMode
deriving DecidableEq, Repr

/-- The result of decoding a word (30_encoding.md R102): a command or ILLEGAL_COMMAND. -/
inductive Decoded where
  | command (i : Instr)
  | illegal (why : IllegalWord)
deriving DecidableEq, Repr

/-- Step 2 of 30_encoding.md R101 before the row `r` is taken. -/
def Fields.checked (u : FieldUse) (f : Fields) (r : Decoded) : Decoded :=
  if f.reservedClear u then r else .illegal .reservedBitSet

/-- MODE of ENC_MODE (30_encoding.md R104). -/
def decodeEncMode (m : BitVec 3) : Decoded :=
  match m with
  | 0#3 => .command .encCbc
  | 1#3 => .command .encPcbc
  | 2#3 => .command .encCfb
  | 3#3 => .command .encOfb
  | 4#3 => .command .encCtr
  | _ => .illegal .reservedMode

/-- MODE of DEC_MODE (30_encoding.md R104). -/
def decodeDecMode (m : BitVec 3) : Decoded :=
  match m with
  | 0#3 => .command .decCbc
  | 1#3 => .command .decPcbc
  | 2#3 => .command .decCfb
  | 3#3 => .command .decOfb
  | 4#3 => .command .decCtr
  | _ => .illegal .reservedMode

/-- 30_encoding.md R101 and R105 on the fields of a word. -/
def Fields.decode (f : Fields) : Decoded :=
  match f.opc with
  | 0x00#8 => f.checked .none (.command .nop)
  | 0x10#8 => f.checked .ab (.command (.gfAdd f.a f.b))
  | 0x11#8 => f.checked .a (.command (.gfDouble f.a))
  | 0x12#8 => f.checked .ab (.command (.gfMul f.a f.b))
  | 0x13#8 => f.checked .a (.command (.gfSbox f.a))
  | 0x14#8 => f.checked .a (.command (.gfInvSbox f.a))
  | 0x15#8 => f.checked .a (.command (.gfRcon f.a))
  | 0x20#8 => f.checked .none (.command .keyExpand)
  | 0x21#8 => f.checked .rk (.command (.rkStore f.rk))
  | 0x30#8 => f.checked .none (.command .stateLoad)
  | 0x31#8 => f.checked .none (.command .stateStore)
  | 0x32#8 => f.checked .none (.command .subBytes)
  | 0x33#8 => f.checked .none (.command .invSubBytes)
  | 0x34#8 => f.checked .none (.command .shiftRows)
  | 0x35#8 => f.checked .none (.command .invShiftRows)
  | 0x36#8 => f.checked .none (.command .mixColumns)
  | 0x37#8 => f.checked .none (.command .invMixColumns)
  | 0x38#8 => f.checked .rk (.command (.addRoundKey f.rk))
  | 0x40#8 => f.checked .none (.command .encBlock)
  | 0x41#8 => f.checked .none (.command .decBlock)
  | 0x48#8 => f.checked .none (.command .pad)
  | 0x49#8 => f.checked .none (.command .unpad)
  | 0x50#8 => f.checked .mode (decodeEncMode f.mode)
  | 0x51#8 => f.checked .mode (decodeDecMode f.mode)
  | 0x52#8 => f.checked .none (.command .ctrInc)
  | _ => .illegal .unassignedOpcode

/-- The decoder: total on every 32-bit word, and it reads no state (30_encoding.md R101, R102). -/
def decode (v : Word) : Decoded := (Fields.ofWord v).decode

/-- A word with an opcode and no other field. -/
def Fields.plain (opc : Byte) : Fields := { a := 0, b := 0, rk := 0, resv := 0, mode := 0, opc := opc }

/-- The fields of a command, from the encodings of the command rules and 30_encoding.md R105, R106. -/
def Instr.fields : Instr → Fields
  | .nop => .plain 0x00
  | .gfAdd a b => { Fields.plain 0x10 with a := a, b := b }
  | .gfDouble a => { Fields.plain 0x11 with a := a }
  | .gfMul a b => { Fields.plain 0x12 with a := a, b := b }
  | .gfSbox a => { Fields.plain 0x13 with a := a }
  | .gfInvSbox a => { Fields.plain 0x14 with a := a }
  | .gfRcon i => { Fields.plain 0x15 with a := i }
  | .keyExpand => .plain 0x20
  | .rkStore r => { Fields.plain 0x21 with rk := r }
  | .stateLoad => .plain 0x30
  | .stateStore => .plain 0x31
  | .subBytes => .plain 0x32
  | .invSubBytes => .plain 0x33
  | .shiftRows => .plain 0x34
  | .invShiftRows => .plain 0x35
  | .mixColumns => .plain 0x36
  | .invMixColumns => .plain 0x37
  | .addRoundKey r => { Fields.plain 0x38 with rk := r }
  | .encBlock => .plain 0x40
  | .decBlock => .plain 0x41
  | .pad => .plain 0x48
  | .unpad => .plain 0x49
  | .encCbc => { Fields.plain 0x50 with mode := 0 }
  | .encPcbc => { Fields.plain 0x50 with mode := 1 }
  | .encCfb => { Fields.plain 0x50 with mode := 2 }
  | .encOfb => { Fields.plain 0x50 with mode := 3 }
  | .encCtr => { Fields.plain 0x50 with mode := 4 }
  | .decCbc => { Fields.plain 0x51 with mode := 0 }
  | .decPcbc => { Fields.plain 0x51 with mode := 1 }
  | .decCfb => { Fields.plain 0x51 with mode := 2 }
  | .decOfb => { Fields.plain 0x51 with mode := 3 }
  | .decCtr => { Fields.plain 0x51 with mode := 4 }
  | .ctrInc => .plain 0x52

/-- The encoder: the one command word of a command. -/
def encode (i : Instr) : Word := i.fields.toWord

/-- The command that the decoder reads from a word whose bits are numbered as spec/opcode_table.json numbers them.
Every command is one 32-bit word (30_encoding.md R108), so the bits above `nbits` are 0. -/
def decodeTableWord (nbits w : Nat) : Option Instr :=
  match decode (BitVec.ofNat 32 (w % 2 ^ nbits)) with
  | .command i => some i
  | .illegal _ => none

/-- A row of the opcode table: a word `w` selects it when `w &&& mask = value` (30_encoding.md R106). -/
structure OpcodeRow where
  mnemonic : String
  value : Word
  mask : Word
deriving DecidableEq, Repr

/-- The table of 30_encoding.md R106, the same rows as spec/opcode_table.json. -/
def opcodeRows : List OpcodeRow :=
  [⟨"NOP", 0x00000000, 0xFFFFFFFF⟩, ⟨"GF_ADD", 0x00000010, 0x0000FFFF⟩, ⟨"GF_DOUBLE", 0x00000011, 0x00FFFFFF⟩,
   ⟨"GF_MUL", 0x00000012, 0x0000FFFF⟩, ⟨"GF_SBOX", 0x00000013, 0x00FFFFFF⟩, ⟨"GF_INV_SBOX", 0x00000014, 0x00FFFFFF⟩,
   ⟨"GF_RCON", 0x00000015, 0x00FFFFFF⟩, ⟨"KEY_EXPAND", 0x00000020, 0xFFFFFFFF⟩, ⟨"RK_STORE", 0x00000021, 0xFFFF0FFF⟩]
  ++ [⟨"STATE_LOAD", 0x00000030, 0xFFFFFFFF⟩, ⟨"STATE_STORE", 0x00000031, 0xFFFFFFFF⟩,
   ⟨"SUB_BYTES", 0x00000032, 0xFFFFFFFF⟩, ⟨"INV_SUB_BYTES", 0x00000033, 0xFFFFFFFF⟩,
   ⟨"SHIFT_ROWS", 0x00000034, 0xFFFFFFFF⟩, ⟨"INV_SHIFT_ROWS", 0x00000035, 0xFFFFFFFF⟩,
   ⟨"MIX_COLUMNS", 0x00000036, 0xFFFFFFFF⟩, ⟨"INV_MIX_COLUMNS", 0x00000037, 0xFFFFFFFF⟩,
   ⟨"ADD_ROUND_KEY", 0x00000038, 0xFFFF0FFF⟩]
  ++ [⟨"ENC_BLOCK", 0x00000040, 0xFFFFFFFF⟩, ⟨"DEC_BLOCK", 0x00000041, 0xFFFFFFFF⟩, ⟨"PAD", 0x00000048, 0xFFFFFFFF⟩,
   ⟨"UNPAD", 0x00000049, 0xFFFFFFFF⟩, ⟨"ENC_CBC", 0x00000050, 0xFFFFFFFF⟩, ⟨"DEC_CBC", 0x00000051, 0xFFFFFFFF⟩,
   ⟨"ENC_PCBC", 0x00000150, 0xFFFFFFFF⟩, ⟨"DEC_PCBC", 0x00000151, 0xFFFFFFFF⟩]
  ++ [⟨"ENC_CFB", 0x00000250, 0xFFFFFFFF⟩, ⟨"DEC_CFB", 0x00000251, 0xFFFFFFFF⟩, ⟨"ENC_OFB", 0x00000350, 0xFFFFFFFF⟩,
   ⟨"DEC_OFB", 0x00000351, 0xFFFFFFFF⟩, ⟨"ENC_CTR", 0x00000450, 0xFFFFFFFF⟩, ⟨"DEC_CTR", 0x00000451, 0xFFFFFFFF⟩,
   ⟨"CTR_INC", 0x00000052, 0xFFFFFFFF⟩]

/-- A word selects a row (30_encoding.md R106). -/
def OpcodeRow.selects (r : OpcodeRow) (w : Word) : Bool := (w &&& r.mask) == r.value

/-- The assembler of 30_encoding.md R109 on the lines it accepts; `ENC_MODE m` and `DEC_MODE m` are the same words as
the mode's own mnemonic. -/
def SourceLine.command (l : SourceLine) : Option Instr :=
  match l.operands with
  | [] =>
    if l.mnemonic = "NOP" then some .nop
    else if l.mnemonic = "KEY_EXPAND" then some .keyExpand
    else if l.mnemonic = "STATE_LOAD" then some .stateLoad
    else if l.mnemonic = "STATE_STORE" then some .stateStore
    else if l.mnemonic = "SUB_BYTES" then some .subBytes
    else if l.mnemonic = "INV_SUB_BYTES" then some .invSubBytes
    else if l.mnemonic = "SHIFT_ROWS" then some .shiftRows
    else if l.mnemonic = "INV_SHIFT_ROWS" then some .invShiftRows
    else if l.mnemonic = "MIX_COLUMNS" then some .mixColumns
    else if l.mnemonic = "INV_MIX_COLUMNS" then some .invMixColumns
    else if l.mnemonic = "ENC_BLOCK" then some .encBlock
    else if l.mnemonic = "DEC_BLOCK" then some .decBlock
    else if l.mnemonic = "PAD" then some .pad
    else if l.mnemonic = "UNPAD" then some .unpad
    else if l.mnemonic = "ENC_CBC" then some .encCbc
    else if l.mnemonic = "DEC_CBC" then some .decCbc
    else if l.mnemonic = "ENC_PCBC" then some .encPcbc
    else if l.mnemonic = "DEC_PCBC" then some .decPcbc
    else if l.mnemonic = "ENC_CFB" then some .encCfb
    else if l.mnemonic = "DEC_CFB" then some .decCfb
    else if l.mnemonic = "ENC_OFB" then some .encOfb
    else if l.mnemonic = "DEC_OFB" then some .decOfb
    else if l.mnemonic = "ENC_CTR" then some .encCtr
    else if l.mnemonic = "DEC_CTR" then some .decCtr
    else if l.mnemonic = "CTR_INC" then some .ctrInc
    else none
  | [.num n] =>
    if l.mnemonic = "GF_DOUBLE" then some (.gfDouble (BitVec.ofNat 8 n))
    else if l.mnemonic = "GF_SBOX" then some (.gfSbox (BitVec.ofNat 8 n))
    else if l.mnemonic = "GF_INV_SBOX" then some (.gfInvSbox (BitVec.ofNat 8 n))
    else if l.mnemonic = "GF_RCON" then some (.gfRcon (BitVec.ofNat 8 n))
    else if l.mnemonic = "RK_STORE" then some (.rkStore (BitVec.ofNat 4 n))
    else if l.mnemonic = "ADD_ROUND_KEY" then some (.addRoundKey (BitVec.ofNat 4 n))
    else none
  | [.num a, .num b] =>
    if l.mnemonic = "GF_ADD" then some (.gfAdd (BitVec.ofNat 8 a) (BitVec.ofNat 8 b))
    else if l.mnemonic = "GF_MUL" then some (.gfMul (BitVec.ofNat 8 a) (BitVec.ofNat 8 b))
    else none
  | [.mode m] =>
    if l.mnemonic = "ENC_MODE" then
      if m = "CBC" then some .encCbc
      else if m = "PCBC" then some .encPcbc
      else if m = "CFB" then some .encCfb
      else if m = "OFB" then some .encOfb
      else if m = "CTR" then some .encCtr
      else none
    else if l.mnemonic = "DEC_MODE" then
      if m = "CBC" then some .decCbc
      else if m = "PCBC" then some .decPcbc
      else if m = "CFB" then some .decCfb
      else if m = "OFB" then some .decOfb
      else if m = "CTR" then some .decCtr
      else none
    else none
  | _ => none

/-- The assembler refuses a line that is not well formed, and otherwise gives its word (30_encoding.md R109). -/
def assemble (l : SourceLine) : Option Word :=
  if l.wf then l.command.map encode else none

/-- The value of a digit: decimal, or a hex letter of either case (30_encoding.md R109). -/
def digitValue (c : Char) : Option Nat :=
  if '0' ≤ c ∧ c ≤ '9' then some (c.toNat - '0'.toNat)
  else if 'a' ≤ c ∧ c ≤ 'f' then some (c.toNat - 'a'.toNat + 10)
  else if 'A' ≤ c ∧ c ≤ 'F' then some (c.toNat - 'A'.toNat + 10)
  else none

/-- The number that the digits spell in `base` after the digits read so far, which spell `acc`. -/
def readDigits (base acc : Nat) : List Char → Option Nat
  | [] => some acc
  | c :: cs =>
    match digitValue c with
    | some v => if v < base then readDigits base (base * acc + v) cs else none
    | none => none

/-- A number: "decimal or hex with a `0x` prefix" (30_encoding.md R109). -/
def readNumber : List Char → Option Nat
  | [] => none
  | ['0', 'x'] => none
  | '0' :: 'x' :: ds => readDigits 16 0 ds
  | ds => readDigits 10 0 ds

/-- The text without the spaces before and after it. -/
def trimSpaces (t : List Char) : List Char := ((t.dropWhile (· = ' ')).reverse.dropWhile (· = ' ')).reverse

/-- The parts of the text between its commas. -/
def splitCommas : List Char → List (List Char)
  | [] => [[]]
  | c :: cs =>
    if c = ',' then [] :: splitCommas cs
    else
      match splitCommas cs with
      | [] => [[c]]
      | w :: ws => (c :: w) :: ws

/-- An operand: a number, and otherwise a mode name (30_encoding.md R109). -/
def readOperand (t : List Char) : SourceOperand :=
  match readNumber t with
  | some n => .num n
  | none => .mode (String.ofList t)

/-- "`MNEMONIC` followed by its operands separated by commas" (30_encoding.md R109). Where spaces may stand and that hex
letters have either case is DESIGN CHOICE, log entry 16: safe. -/
def readLine (line : String) : SourceLine :=
  let t := trimSpaces line.toList
  let rest := trimSpaces (t.dropWhile (· ≠ ' '))
  { mnemonic := String.ofList (t.takeWhile (· ≠ ' '))
    operands := if rest = [] then [] else (splitCommas rest).map fun w => readOperand (trimSpaces w) }

/-- The word of an assembler line as text, none where the assembler refuses it (30_encoding.md R109). -/
def assembleText (line : String) : Option Word := assemble (readLine line)

/-- The assembler line of a command, with the mnemonic of spec/opcode_table.json (30_encoding.md R109). -/
def Instr.source : Instr → SourceLine
  | .nop => ⟨"NOP", []⟩
  | .gfAdd a b => ⟨"GF_ADD", [.num a.toNat, .num b.toNat]⟩
  | .gfDouble a => ⟨"GF_DOUBLE", [.num a.toNat]⟩
  | .gfMul a b => ⟨"GF_MUL", [.num a.toNat, .num b.toNat]⟩
  | .gfSbox a => ⟨"GF_SBOX", [.num a.toNat]⟩
  | .gfInvSbox a => ⟨"GF_INV_SBOX", [.num a.toNat]⟩
  | .gfRcon i => ⟨"GF_RCON", [.num i.toNat]⟩
  | .keyExpand => ⟨"KEY_EXPAND", []⟩
  | .rkStore r => ⟨"RK_STORE", [.num r.toNat]⟩
  | .stateLoad => ⟨"STATE_LOAD", []⟩
  | .stateStore => ⟨"STATE_STORE", []⟩
  | .subBytes => ⟨"SUB_BYTES", []⟩
  | .invSubBytes => ⟨"INV_SUB_BYTES", []⟩
  | .shiftRows => ⟨"SHIFT_ROWS", []⟩
  | .invShiftRows => ⟨"INV_SHIFT_ROWS", []⟩
  | .mixColumns => ⟨"MIX_COLUMNS", []⟩
  | .invMixColumns => ⟨"INV_MIX_COLUMNS", []⟩
  | .addRoundKey r => ⟨"ADD_ROUND_KEY", [.num r.toNat]⟩
  | .encBlock => ⟨"ENC_BLOCK", []⟩
  | .decBlock => ⟨"DEC_BLOCK", []⟩
  | .pad => ⟨"PAD", []⟩
  | .unpad => ⟨"UNPAD", []⟩
  | .encCbc => ⟨"ENC_CBC", []⟩
  | .decCbc => ⟨"DEC_CBC", []⟩
  | .encPcbc => ⟨"ENC_PCBC", []⟩
  | .decPcbc => ⟨"DEC_PCBC", []⟩
  | .encCfb => ⟨"ENC_CFB", []⟩
  | .decCfb => ⟨"DEC_CFB", []⟩
  | .encOfb => ⟨"ENC_OFB", []⟩
  | .decOfb => ⟨"DEC_OFB", []⟩
  | .encCtr => ⟨"ENC_CTR", []⟩
  | .decCtr => ⟨"DEC_CTR", []⟩
  | .ctrInc => ⟨"CTR_INC", []⟩

end Sys2Proof
end

