-- ==== Sys2Proof/Machine/State.lean ====
section
/-!
DEFINITION. The state of the block (10_state.md R33), the reasons a step can stop, and the state right after reset
(70_reset_and_hazards.md R370).
-/

namespace Sys2Proof.Machine

/-- The error codes of 60_exceptions.md R330, by name; `noError` is NONE, the command completed. All other codes are
never produced. -/
inductive ErrCode where
  | noError
  | configKeyLength
  | configIvLength
  | configDataLength
  | paddingError
  | illegalCommand
  | keyNotLoaded
  | badOperand
  | addressRange
deriving DecidableEq, Repr

/-- The fields of STATUS (10_state.md R42, with the key status KEY_VALID, NK and NR of R38). The host never writes
STATUS and its reserved bits read 0, so the fields are all it holds; `Status.toWord` is the register's value (DEDUCED, log
entry 13: safe). -/
structure Status where
  /-- bit 0, BUSY -/
  busy : Bool
  /-- bit 1, ERR -/
  err : Bool
  /-- bit 2, ERR_SEEN -/
  errSeen : Bool
  /-- bit 3, KEY_VALID -/
  keyValid : Bool
  /-- bits 15:8, ERRCODE -/
  errCode : ErrCode
  /-- bits 19:16, NK -/
  nk : BitVec 4
  /-- bits 23:20, NR -/
  nr : BitVec 4
deriving DecidableEq, Repr

/-- The contents of BUF (20_memory.md R70) as address and byte pairs; the canonical form is `Memory.wf`. -/
structure Memory where
  cells : List Host.Cell
deriving DecidableEq, Repr

/-- A value the block returns to the host: that of a register read (10_state.md R51) or of a BUF read
(20_memory.md R73). -/
inductive Reply where
  | register (v : Word)
  | byte (v : Byte)
deriving DecidableEq, Repr

/-- The block's state (10_state.md R33) and, for the host's side of its interface, what the host is about to do and
what it has been answered. -/
structure State where
  /-- The implementation parameters (00_scope.md R13); nothing changes them (DESIGN CHOICE, log entry 4: safe). -/
  cfg : Config
  /-- STATUS, with the key status in it (10_state.md R42, R38). -/
  status : Status
  /-- STATE, the 128-bit state register (10_state.md R35). -/
  st : Block
  /-- RK[0] to RK[14], the round-key store (10_state.md R37). -/
  rk : RoundKeys
  /-- KEY_ADDR, register 0x2 (10_state.md R43). -/
  keyAddr : Word
  /-- KEY_LEN, register 0x3 (10_state.md R43). -/
  keyLen : Word
  /-- IV_ADDR, register 0x4 (10_state.md R44). -/
  ivAddr : Word
  /-- IV_LEN, register 0x5 (10_state.md R44). -/
  ivLen : Word
  /-- SRC_ADDR, register 0x6 (10_state.md R45). -/
  srcAddr : Word
  /-- SRC_LEN, register 0x7 (10_state.md R45). -/
  srcLen : Word
  /-- DST_ADDR, register 0x8 (10_state.md R46). -/
  dstAddr : Word
  /-- OUT_LEN, register 0x9 (10_state.md R47). -/
  outLen : Word
  /-- GF_RESULT, register 0xA (10_state.md R48). -/
  gfResult : Word
  /-- ERR_CMD, register 0xB (10_state.md R49). -/
  errCmd : Word
  /-- BUF (20_memory.md R70). -/
  buf : Memory
  /-- The host's actions to come, the next one first: the "program" of 10_state.md R31 (DESIGN CHOICE, log
  entry 5: safe). -/
  pending : List HostAction
  /-- The values that the host's reads have returned, oldest first (10_state.md R51, 20_memory.md R73; DESIGN CHOICE,
  log entry 6: safe). -/
  replies : List Reply
deriving DecidableEq, Repr

/-- Why the block stops with a fault: never. Every command ends in Complete or Error, both a next state
(70_reset_and_hazards.md R376, 60_exceptions.md R339), so there is no fault to name. DEDUCED, log entry 14. Safe: nothing is
hidden behind one. -/
inductive Fault where
deriving DecidableEq, Repr

/-- Why a step is refused. -/
inductive Refusal where
  /-- Raised by exec for a command that has no meaning yet (none is left). Safe: no state follows. -/
  | notModelled (mnemonic : String)
  /-- Raised by a host access to BUF at an address at or above BUF_SIZE: outside the block's interface, treatment
  "refuse" (20_memory.md R73, 93_implementation_defined.md I7). DEDUCED, log entry 8. Safe: no state
  follows. -/
  | bufAccessOutOfRange (addr : Nat)
  /-- Raised by a host action other than a read of STATUS while BUSY = 1: treatment "refuse"
  (70_reset_and_hazards.md R375, 93_implementation_defined.md I6). DEDUCED, log entry 9. Safe: no state follows;
  BUSY is 0 in every state that the block reaches. -/
  | hostActionWhileBusy
deriving DecidableEq, Repr

/-- STATUS = 0x00000000 (10_state.md R42, 70_reset_and_hazards.md R370). -/
def Status.reset : Status where
  busy := false
  err := false
  errSeen := false
  keyValid := false
  errCode := .noError
  nk := 0
  nr := 0

/-- The block right after reset (70_reset_and_hazards.md R370), with the default parameters and nothing asked of it
yet. STATE, RK and BUF are unspecified there: they are zero here (DESIGN CHOICE, log entries 1 and 2: unsafe). -/
def State.reset : State where
  cfg := .default
  status := .reset
  st := .zero
  rk := Vector.replicate 15 .zero
  keyAddr := 0
  keyLen := 0
  ivAddr := 0
  ivLen := 0
  srcAddr := 0
  srcLen := 0
  dstAddr := 0
  outLen := 0
  gfResult := 0
  errCmd := 0
  buf := ⟨[]⟩
  pending := []
  replies := []

end Sys2Proof.Machine
end

