-- ==== Sys2Proof/Machine/Flags.lean ====
section
/-!
DEFINITION. STATUS: its value as a register, its only flags (10_state.md R42, R53), and the two ways in which a
command ends (60_exceptions.md R334).
-/

namespace Sys2Proof.Machine

/-- The number of an error code in STATUS.ERRCODE (60_exceptions.md R330). -/
def ErrCode.code : ErrCode → Byte
  | .noError => 0x00
  | .configKeyLength => 0x01
  | .configIvLength => 0x02
  | .configDataLength => 0x03
  | .paddingError => 0x04
  | .illegalCommand => 0x10
  | .keyNotLoaded => 0x11
  | .badOperand => 0x12
  | .addressRange => 0x13

/-- The source's two error kinds (60_exceptions.md R330). -/
inductive ErrKind where
  | configurationError
  | paddingError
deriving DecidableEq, Repr

/-- The map of an error code to the source's error kind, for the codes that have one (60_exceptions.md R330). -/
def ErrCode.kind : ErrCode → Option ErrKind
  | .configKeyLength | .configIvLength | .configDataLength => some .configurationError
  | .paddingError => some .paddingError
  | .noError | .illegalCommand | .keyNotLoaded | .badOperand | .addressRange => none

/-- One STATUS bit. -/
def flagBit (b : Bool) : BitVec 1 := BitVec.ofBool b

/-- The value of STATUS, bits 31:24 first; bits 31:24 and 7:4 read as 0 (10_state.md R42). -/
def Status.toWord (q : Status) : Word :=
  0#8 ++ q.nr ++ q.nk ++ q.errCode.code ++ 0#4 ++
    flagBit q.keyValid ++ flagBit q.errSeen ++ flagBit q.err ++ flagBit q.busy

/-- "Complete" of 60_exceptions.md R334. -/
def Status.completed (q : Status) : Status := { q with busy := false, err := false, errCode := .noError }

/-- "Error(code)" of 60_exceptions.md R334. -/
def Status.errored (c : ErrCode) (q : Status) : Status :=
  { q with busy := false, err := true, errSeen := true, errCode := c }

/-- The key status that a successful KEY_EXPAND sets (10_state.md R38). -/
def Status.keyLoaded (nk nr : Nat) (q : Status) : Status :=
  { q with keyValid := true, nk := BitVec.ofNat 4 nk, nr := BitVec.ofNat 4 nr }

end Sys2Proof.Machine
end

