-- ==== Sys2Proof/Machine/Ops.lean ====
section
/-!
DEFINITION. The shared operations: BUF (20_memory.md), the conversions between a byte sequence and a block
(10_state.md R36), the exclusive-or of byte sequences (00_scope.md R15), and how a command ends: completing, and
raising an error, which is what this block has in place of taking an exception (60_exceptions.md R334, R338).
-/

namespace Sys2Proof

/-- The bytes of a column, row 0 first (10_state.md R36). -/
def Column.toBytes (w : Column) : List Byte := [w.r0, w.r1, w.r2, w.r3]

/-- The bytes of a block in order (10_state.md R36). -/
def Block.toBytes (b : Block) : List Byte := b.c0.toBytes ++ b.c1.toBytes ++ b.c2.toBytes ++ b.c3.toBytes

/-- `⊕` on two four-byte words. -/
def Column.xor (x y : Column) : Column := ⟨x.r0 ^^^ y.r0, x.r1 ^^^ y.r1, x.r2 ^^^ y.r2, x.r3 ^^^ y.r3⟩

/-- `⊕` on two 16-byte sequences (00_scope.md R15). -/
def Block.xor (x y : Block) : Block := ⟨x.c0.xor y.c0, x.c1.xor y.c1, x.c2.xor y.c2, x.c3.xor y.c3⟩

end Sys2Proof

namespace Sys2Proof.Machine

/-- What a byte of BUF that nothing has written reads as: BUF's contents after reset are unspecified
(93_implementation_defined.md I2). DESIGN CHOICE 0x00, log entry 1: unsafe. -/
def Memory.unlisted : Byte := 0x00

/-- The byte that the cells hold at `x`. -/
def readCells : List Host.Cell → Nat → Byte
  | [], _ => Memory.unlisted
  | (a, v) :: cs, x => if a = x then v else readCells cs x

/-- `BUF[x]` (20_memory.md R70). -/
def Memory.read (m : Memory) (x : Nat) : Byte := readCells m.cells x

/-- The cells after `x` is set to `v`: an entry is kept only for a byte other than the unlisted one. -/
def writeCells : List Host.Cell → Nat → Byte → List Host.Cell
  | [], x, v => if v = Memory.unlisted then [] else [(x, v)]
  | (a, w) :: cs, x, v =>
    if x < a then (if v = Memory.unlisted then (a, w) :: cs else (x, v) :: (a, w) :: cs)
    else if x = a then (if v = Memory.unlisted then cs else (x, v) :: cs)
    else (a, w) :: writeCells cs x v

/-- `BUF[x] <- v` (20_memory.md R72, R73). -/
def Memory.write (m : Memory) (x : Nat) (v : Byte) : Memory := ⟨writeCells m.cells x v⟩

/-- The bytes of `vs` at `a`, `a + 1`, and so on (20_memory.md R72). -/
def Memory.writeBytes (m : Memory) (a : Nat) : List Byte → Memory
  | [] => m
  | v :: vs => (m.write a v).writeBytes (a + 1) vs

/-- The canonical form of BUF's contents: addresses strictly rising, and no entry equal to what an unlisted address
reads as. -/
abbrev Memory.wf (m : Memory) : Prop :=
  m.cells.Pairwise (fun p q => p.1 < q.1) ∧ ∀ c ∈ m.cells, c.2 ≠ Memory.unlisted

/-- Every listed address is below `n`. -/
abbrev Memory.within (m : Memory) (n : Nat) : Prop := ∀ c ∈ m.cells, c.1 < n

/-- `MemRead(addr, n)` (20_memory.md R72). -/
def State.memRead (s : State) (addr n : Nat) : List Byte := (List.range n).map fun i => s.buf.read (addr + i)

/-- `MemWrite(addr, n, v)` with `n` the length of `v` (20_memory.md R72). -/
def State.memWrite (s : State) (addr : Nat) (v : List Byte) : State := { s with buf := s.buf.writeBytes addr v }

/-- The column of four bytes of `l` from index `i` on. -/
def columnAt (l : List Byte) (i : Nat) : Column :=
  ⟨l.getD i 0, l.getD (i + 1) 0, l.getD (i + 2) 0, l.getD (i + 3) 0⟩

/-- The block of a 16-byte sequence, byte for byte (10_state.md R36). -/
def blockOf (l : List Byte) : Block := ⟨columnAt l 0, columnAt l 4, columnAt l 8, columnAt l 12⟩

/-- `⊕` on two byte sequences of equal length (00_scope.md R15). -/
def xorBytes (x y : List Byte) : List Byte := List.zipWith (· ^^^ ·) x y

/-- `x[0], ..., x[n-1]` with `x[i] = d[16i .. min(16i + 16, len(d)))` (45_modes.md R280). -/
def splitBlocks : Nat → List Byte → List (List Byte)
  | 0, _ => []
  | n + 1, d => d.take 16 :: splitBlocks n (d.drop 16)

/-- RK[j] (10_state.md R37). The store has no entry above 14; no command reads one (60_exceptions.md R333), because
NR is at most 14 in every state the block reaches. DESIGN CHOICE above 14, log entry 11: unsafe there. -/
def roundKey (rk : RoundKeys) (j : Nat) : Block := if h : j < 15 then rk[j] else .zero

/-- `for j in 0..len(keys)-1: RK[j] <- keys[j]`; the other entries keep what they hold (41_key_schedule.md R180). -/
def storeRoundKeys (keys : List Block) (rk : RoundKeys) : RoundKeys :=
  Vector.ofFn fun j => keys.getD j.val rk[j]

/-- The first error whose condition holds, in the order listed (60_exceptions.md R336). -/
def firstError : List (Bool × ErrCode) → Option ErrCode
  | [] => none
  | (cond, c) :: rest => if cond then some c else firstError rest

/-- "Complete" of 60_exceptions.md R334. -/
def State.complete (s : State) : State := { s with status := s.status.completed }

/-- `raise Error(code)` of 60_exceptions.md R334, the block's one way of taking an error: STATUS and ERR_CMD report
it, OUT_LEN becomes 0 for a data command, and nothing else changes. There is no handler and no return from one
(R338, R339). -/
def State.raiseError (word : Word) (isData : Bool) (c : ErrCode) (s : State) : State :=
  { s with
    status := s.status.errored c
    errCmd := word
    outLen := if isData then 0 else s.outLen }

/-- A command's step: its checks first, then its writes, all or nothing (00_scope.md R17, 60_exceptions.md R337). ERR_CMD
gets the word the command encodes to, which is the one that was issued (DEDUCED, log entry 10: safe). -/
def runCommand (i : Instr) (err : Option ErrCode) (commit : State → State) (s : State) :
    Host.Outcome State Fault Refusal :=
  match err with
  | some c => .next (s.raiseError (encode i) i.isData c)
  | none => .next (commit s).complete

/-- The writes of a data command that gives the output `out` (45_modes.md R284, 10_state.md R47; the length as a 32-bit
value: DEDUCED, log entry 15: safe). -/
def State.commitOutput (out : List Byte) (s : State) : State :=
  { s.memWrite s.dstAddr.toNat out with outLen := BitVec.ofNat 32 out.length }

/-- A data command's step. An output of `none` is a failing unpad: PADDING_ERROR, after every other check
(60_exceptions.md R332, R336). -/
def runDataCommand (i : Instr) (err : Option ErrCode) (out : Option (List Byte)) (s : State) :
    Host.Outcome State Fault Refusal :=
  match err, out with
  | some c, _ => runCommand i (some c) id s
  | none, none => runCommand i (some .paddingError) id s
  | none, some bytes => runCommand i none (State.commitOutput bytes) s

end Sys2Proof.Machine
end

