-- ==== Sys2Proof/Machine/Operands.lean ====
section
/-!
DEFINITION. The operands of the commands: the regions of BUF that the interface registers name (20_memory.md R74,
R75), the key slot (10_state.md R38) and the operand checks that several commands share (60_exceptions.md R333).
-/

namespace Sys2Proof.Machine

/-- A region: `(addr, n)` names `BUF[addr .. addr + n)` (00_scope.md R20). -/
structure Region where
  addr : Nat
  n : Nat
deriving DecidableEq, Repr

/-- `InRange(addr, n)`, over unbounded naturals (20_memory.md R74). -/
def Region.inRange (s : State) (r : Region) : Bool := decide (r.addr + r.n ≤ s.cfg.bufSize)

/-- `L = R[SRC_LEN]` (20_memory.md R75). -/
def State.len (s : State) : Nat := s.srcLen.toNat

/-- `16 - (L mod 16)`, the pad length of 44_padding.md R260. -/
def padLen (l : Nat) : Nat := 16 - l % 16

/-- `(KEY_ADDR, KEY_LEN)` (10_state.md R43). -/
def State.keyRegion (s : State) : Region := ⟨s.keyAddr.toNat, s.keyLen.toNat⟩

/-- `(IV_ADDR, 16)` (10_state.md R44). -/
def State.ivRegion (s : State) : Region := ⟨s.ivAddr.toNat, 16⟩

/-- `(SRC_ADDR, n)` (10_state.md R45). -/
def State.srcRegion (s : State) (n : Nat) : Region := ⟨s.srcAddr.toNat, n⟩

/-- `(DST_ADDR, n)` (10_state.md R46). -/
def State.dstRegion (s : State) (n : Nat) : Region := ⟨s.dstAddr.toNat, n⟩

/-- The regions that a command checks: the table of 20_memory.md R75. -/
def checkedRegions (i : Instr) (s : State) : List Region :=
  match i with
  | .keyExpand => [s.keyRegion]
  | .rkStore _ => [s.dstRegion 16]
  | .stateLoad => [s.srcRegion 16]
  | .stateStore => [s.dstRegion 16]
  | .encBlock | .decBlock => [s.srcRegion 16, s.dstRegion 16]
  | .pad => [s.srcRegion s.len, s.dstRegion (s.len + padLen s.len)]
  | .unpad => [s.srcRegion s.len, s.dstRegion s.len]
  | .encCbc | .encPcbc => [s.srcRegion s.len, s.ivRegion, s.dstRegion (s.len + padLen s.len)]
  | .decCbc | .decPcbc => [s.srcRegion s.len, s.ivRegion, s.dstRegion s.len]
  | .encCfb | .decCfb | .encOfb | .decOfb | .encCtr | .decCtr => [s.srcRegion s.len, s.ivRegion, s.dstRegion s.len]
  | .nop | .gfAdd _ _ | .gfDouble _ | .gfMul _ _ | .gfSbox _ | .gfInvSbox _ | .gfRcon _ => []
  | .subBytes | .invSubBytes | .shiftRows | .invShiftRows | .mixColumns | .invMixColumns => []
  | .addRoundKey _ | .ctrInc => []

/-- The cause of ADDRESS_RANGE: a region of the command is not in BUF (20_memory.md R74). -/
def outOfRange (i : Instr) (s : State) : Bool := !(checkedRegions i s).all (·.inRange s)

/-- The cause of KEY_NOT_LOADED (60_exceptions.md R333). -/
def noKey (s : State) : Bool := !s.status.keyValid

/-- The cause of BAD_OPERAND in RK_STORE and ADD_ROUND_KEY: `r > NR` (60_exceptions.md R333). -/
def aboveNr (r : BitVec 4) (s : State) : Bool := decide (s.status.nr < r)

/-- NR as a count of rounds (10_state.md R38). -/
def State.rounds (s : State) : Nat := s.status.nr.toNat

/-- The bytes of `BUF[addr .. addr + n)`. -/
def State.readRegion (s : State) (r : Region) : List Byte := s.memRead r.addr r.n

/-- The input `d` of a data command: L bytes at SRC_ADDR (45_modes.md R281). -/
def State.srcData (s : State) : List Byte := s.readRegion (s.srcRegion s.len)

/-- The IV or initial counter: 16 bytes at IV_ADDR (45_modes.md R281). -/
def State.iv (s : State) : Block := blockOf (s.readRegion s.ivRegion)

end Sys2Proof.Machine
end

