-- ==== Sys2Proof/Machine/Gf256.lean ====
section
/-!
DEFINITION. The GF(2^8) arithmetic unit (40_gf256.md): addition, the doubling primitive, multiplication, the
substitution tables and the round constants, and the six GF commands.
-/

namespace Sys2Proof.Machine

/-- Field addition (40_gf256.md R141). -/
def gadd (a b : Byte) : Byte := a ^^^ b

/-- The doubling primitive (40_gf256.md R142). -/
def dbl (a : Byte) : Byte := if a.getLsbD 7 then (a <<< 1) ^^^ 0x1B#8 else a <<< 1

/-- One turn of the loop of 40_gf256.md R143 on `(r, t)`, for bit `i` of `b`. -/
def gmulStep (b : Byte) (p : Byte × Byte) (i : Nat) : Byte × Byte :=
  (if b.getLsbD i then p.1 ^^^ p.2 else p.1, dbl p.2)

/-- Field multiplication by shift-and-add over the doubling primitive (40_gf256.md R143). -/
def gmul (a b : Byte) : Byte := ((List.range 8).foldl (gmulStep b) (0x00#8, a)).1

/-- The forward substitution table: row `hi` of 40_gf256.md R145 holds the entries for `16·hi + lo`, `lo = 0` first. -/
def sboxRows : List (BitVec 128) :=
  [0x637c777bf26b6fc53001672bfed7ab76#128,
   0xca82c97dfa5947f0add4a2af9ca472c0#128,
   0xb7fd9326363ff7cc34a5e5f171d83115#128,
   0x04c723c31896059a071280e2eb27b275#128] ++
  [0x09832c1a1b6e5aa0523bd6b329e32f84#128,
   0x53d100ed20fcb15b6acbbe394a4c58cf#128,
   0xd0efaafb434d338545f9027f503c9fa8#128,
   0x51a3408f929d38f5bcb6da2110fff3d2#128] ++
  [0xcd0c13ec5f974417c4a77e3d645d1973#128,
   0x60814fdc222a908846eeb814de5e0bdb#128,
   0xe0323a0a4906245cc2d3ac629195e479#128,
   0xe7c8376d8dd54ea96c56f4ea657aae08#128] ++
  [0xba78252e1ca6b4c6e8dd741f4bbd8b8a#128,
   0x703eb5664803f60e613557b986c11d9e#128,
   0xe1f8981169d98e949b1e87e9ce5528df#128,
   0x8ca1890dbfe6426841992d0fb054bb16#128]

/-- The inverse substitution table: row `hi` of 40_gf256.md R146 holds the entries for `16·hi + lo`, `lo = 0` first. -/
def invSboxRows : List (BitVec 128) :=
  [0x52096ad53036a538bf40a39e81f3d7fb#128,
   0x7ce339829b2fff87348e4344c4dee9cb#128,
   0x547b9432a6c2233dee4c950b42fac34e#128,
   0x082ea16628d924b2765ba2496d8bd125#128] ++
  [0x72f8f66486689816d4a45ccc5d65b692#128,
   0x6c704850fdedb9da5e154657a78d9d84#128,
   0x90d8ab008cbcd30af7e45805b8b34506#128,
   0xd02c1e8fca3f0f02c1afbd0301138a6b#128] ++
  [0x3a9111414f67dcea97f2cfcef0b4e673#128,
   0x96ac7422e7ad3585e2f937e81c75df6e#128,
   0x47f11a711d29c5896fb7620eaa18be1b#128,
   0xfc563e4bc6d279209adbc0fe78cd5af4#128] ++
  [0x1fdda8338807c731b11210592780ec5f#128,
   0x60517fa919b54a0d2de57a9f93c99cef#128,
   0xa0e03b4dae2af5b0c8ebbb3c83539961#128,
   0x172b047eba77d626e169146355210c7d#128]

/-- The entry of a substitution table for `a = 16·hi + lo`. -/
def tableByte (rows : List (BitVec 128)) (a : Byte) : Byte :=
  (rows.getD (a.toNat / 16) 0).extractLsb' (8 * (15 - a.toNat % 16)) 8

/-- `S[a]` (40_gf256.md R145). -/
def sbox (a : Byte) : Byte := tableByte sboxRows a

/-- `InvS[a]` (40_gf256.md R146). -/
def invSbox (a : Byte) : Byte := tableByte invSboxRows a

/-- `Rcon[i]` for `i` in 1..10 (40_gf256.md R148); the table has no other entry, and none is asked for
(DESIGN CHOICE elsewhere, log entry 11). -/
def rcon (i : Nat) : Byte :=
  [0x01#8, 0x02#8, 0x04#8, 0x08#8, 0x10#8, 0x20#8, 0x40#8, 0x80#8, 0x1B#8, 0x36#8].getD (i - 1) 0

/-- `R[GF_RESULT] <- zext_32(v)` (10_state.md R48). -/
def State.setGfResult (v : Byte) (s : State) : State := { s with gfResult := v.setWidth 32 }

/-- `GF_ADD a, b` (40_gf256.md R150). -/
def execGfAdd (a b : Byte) (s : State) : Host.Outcome State Fault Refusal :=
  runCommand (.gfAdd a b) none (State.setGfResult (gadd a b)) s

/-- `GF_DOUBLE a` (40_gf256.md R151). -/
def execGfDouble (a : Byte) (s : State) : Host.Outcome State Fault Refusal :=
  runCommand (.gfDouble a) none (State.setGfResult (dbl a)) s

/-- `GF_MUL a, b` (40_gf256.md R152). -/
def execGfMul (a b : Byte) (s : State) : Host.Outcome State Fault Refusal :=
  runCommand (.gfMul a b) none (State.setGfResult (gmul a b)) s

/-- `GF_SBOX a` (40_gf256.md R153). -/
def execGfSbox (a : Byte) (s : State) : Host.Outcome State Fault Refusal :=
  runCommand (.gfSbox a) none (State.setGfResult (sbox a)) s

/-- `GF_INV_SBOX a` (40_gf256.md R154). -/
def execGfInvSbox (a : Byte) (s : State) : Host.Outcome State Fault Refusal :=
  runCommand (.gfInvSbox a) none (State.setGfResult (invSbox a)) s

/-- `i` is no index of a round constant: `i = 0` or `i > 10` (40_gf256.md R155). -/
def badRconIndex (i : Byte) : Bool := decide (i.toNat = 0) || decide (10 < i.toNat)

/-- `GF_RCON i` (40_gf256.md R155). -/
def execGfRcon (i : Byte) (s : State) : Host.Outcome State Fault Refusal :=
  runCommand (.gfRcon i) (firstError [(badRconIndex i, .badOperand)]) (State.setGfResult (rcon i.toNat)) s

end Sys2Proof.Machine
end

