-- ==== Sys2Proof/Machine/KeySchedule.lean ====
section
/-!
DEFINITION. The key expander (41_key_schedule.md): the expansion function and the commands KEY_EXPAND and RK_STORE.
-/

namespace Sys2Proof.Machine

/-- Each byte of a word through the forward table (41_key_schedule.md R173, R174). -/
def subWord (w : Column) : Column := ⟨sbox w.r0, sbox w.r1, sbox w.r2, sbox w.r3⟩

/-- The word rotated left by one byte (41_key_schedule.md R173). -/
def rotWord (w : Column) : Column := ⟨w.r1, w.r2, w.r3, w.r0⟩

/-- `Nr` for `Nk` 4, 6 and 8 (00_scope.md R10, 41_key_schedule.md R177; DESIGN CHOICE elsewhere, log entry 11). -/
def roundsOf (nk : Nat) : Nat := if nk = 4 then 10 else if nk = 6 then 12 else 14

/-- `temp` of word `i` after the transformations of 41_key_schedule.md R173 and R174. -/
def keyTemp (nk i : Nat) (temp : Column) : Column :=
  if i % nk = 0 then (subWord (rotWord temp)).xor ⟨rcon (i / nk), 0, 0, 0⟩
  else if nk = 8 ∧ i % nk = 4 then subWord temp
  else temp

/-- Word `i` from the words before it, of which `w` holds at least `nk` (41_key_schedule.md R172 to R175). -/
def nextKeyWord (nk : Nat) (w : List Column) : Column :=
  (keyTemp nk w.length (w.getD (w.length - 1) .zero)).xor (w.getD (w.length - nk) .zero)

/-- `n` more words appended in increasing order (41_key_schedule.md R172). -/
def extendKeyWords (nk : Nat) : Nat → List Column → List Column
  | 0, w => w
  | n + 1, w => extendKeyWords nk n (w ++ [nextKeyWord nk w])

/-- `w[i] = key[4i .. 4i + 4)` for `i` in 0..Nk-1 (41_key_schedule.md R171). -/
def keyWords (key : List Byte) : List Column := (List.range (key.length / 4)).map fun i => columnAt key (4 * i)

/-- `KeyExpansion(key)`: the words `w[0 .. 4(Nr+1))` (41_key_schedule.md R177). -/
def expandKey (key : List Byte) : List Column :=
  extendKeyWords (key.length / 4) (4 * (roundsOf (key.length / 4) + 1) - key.length / 4) (keyWords key)

/-- `RK[j] = w[4j] ++ w[4j+1] ++ w[4j+2] ++ w[4j+3]` (41_key_schedule.md R176). -/
def roundKeyOf (w : List Column) (j : Nat) : Block :=
  ⟨w.getD (4 * j) .zero, w.getD (4 * j + 1) .zero, w.getD (4 * j + 2) .zero, w.getD (4 * j + 3) .zero⟩

/-- Round keys 0 to Nr of a key (41_key_schedule.md R176). -/
def keySchedule (key : List Byte) : List Block :=
  (List.range (roundsOf (key.length / 4) + 1)).map (roundKeyOf (expandKey key))

/-- The key slot loaded with a key (41_key_schedule.md R180). -/
def State.loadKey (key : List Byte) (s : State) : State :=
  { s with
    rk := storeRoundKeys (keySchedule key) s.rk
    status := s.status.keyLoaded (key.length / 4) (roundsOf (key.length / 4)) }

/-- `KEY_LEN ∉ {16, 24, 32}` (41_key_schedule.md R180). -/
def badKeyLength (s : State) : Bool := !(s.keyLen == 16 || s.keyLen == 24 || s.keyLen == 32)

/-- `KEY_EXPAND` (41_key_schedule.md R180). -/
def execKeyExpand (s : State) : Host.Outcome State Fault Refusal :=
  runCommand .keyExpand
    (firstError [(badKeyLength s, .configKeyLength), (outOfRange .keyExpand s, .addressRange)])
    (State.loadKey (s.readRegion s.keyRegion)) s

/-- `RK_STORE r` (41_key_schedule.md R181). -/
def execRkStore (r : BitVec 4) (s : State) : Host.Outcome State Fault Refusal :=
  runCommand (.rkStore r)
    (firstError [(noKey s, .keyNotLoaded), (aboveNr r s, .badOperand), (outOfRange (.rkStore r) s, .addressRange)])
    (fun s => s.memWrite s.dstAddr.toNat (roundKey s.rk r.toNat).toBytes) s

end Sys2Proof.Machine
end

