-- ==== Sys2Proof/Machine/RoundTransform.lean ====
section
/-!
DEFINITION. The round engine (42_round_transform.md): the transforms of a 16-byte state and the commands that apply
them to the STATE register, with the transfers STATE_LOAD and STATE_STORE.
-/

namespace Sys2Proof.Machine

/-- One function on every byte of a block. -/
def mapBytes (f : Byte → Byte) (b : Block) : Block :=
  ⟨⟨f b.c0.r0, f b.c0.r1, f b.c0.r2, f b.c0.r3⟩, ⟨f b.c1.r0, f b.c1.r1, f b.c1.r2, f b.c1.r3⟩,
   ⟨f b.c2.r0, f b.c2.r1, f b.c2.r2, f b.c2.r3⟩, ⟨f b.c3.r0, f b.c3.r1, f b.c3.r2, f b.c3.r3⟩⟩

/-- `SubBytes` (42_round_transform.md R201). -/
def subBytes (b : Block) : Block := mapBytes sbox b

/-- `InvSubBytes` (42_round_transform.md R202). -/
def invSubBytes (b : Block) : Block := mapBytes invSbox b

/-- `ShiftRows`: `s'(r, c) = s(r, (c + r) mod 4)` (42_round_transform.md R203). -/
def shiftRows (b : Block) : Block :=
  ⟨⟨b.c0.r0, b.c1.r1, b.c2.r2, b.c3.r3⟩, ⟨b.c1.r0, b.c2.r1, b.c3.r2, b.c0.r3⟩,
   ⟨b.c2.r0, b.c3.r1, b.c0.r2, b.c1.r3⟩, ⟨b.c3.r0, b.c0.r1, b.c1.r2, b.c2.r3⟩⟩

/-- `InvShiftRows`: `s'(r, c) = s(r, (c - r) mod 4)` (42_round_transform.md R204). -/
def invShiftRows (b : Block) : Block :=
  ⟨⟨b.c0.r0, b.c3.r1, b.c2.r2, b.c1.r3⟩, ⟨b.c1.r0, b.c0.r1, b.c3.r2, b.c2.r3⟩,
   ⟨b.c2.r0, b.c1.r1, b.c0.r2, b.c3.r3⟩, ⟨b.c3.r0, b.c2.r1, b.c1.r2, b.c0.r3⟩⟩

/-- `MixColumn` on one column (42_round_transform.md R205). -/
def mixColumn (w : Column) : Column :=
  let t := w.r0 ^^^ w.r1 ^^^ w.r2 ^^^ w.r3
  ⟨w.r0 ^^^ t ^^^ dbl (w.r0 ^^^ w.r1), w.r1 ^^^ t ^^^ dbl (w.r1 ^^^ w.r2),
   w.r2 ^^^ t ^^^ dbl (w.r2 ^^^ w.r3), w.r3 ^^^ t ^^^ dbl (w.r3 ^^^ w.r0)⟩

/-- `InvMixColumn` on one column (42_round_transform.md R207). -/
def invMixColumn (w : Column) : Column :=
  let u := dbl (dbl (w.r0 ^^^ w.r2))
  let v := dbl (dbl (w.r1 ^^^ w.r3))
  mixColumn ⟨w.r0 ^^^ u, w.r1 ^^^ v, w.r2 ^^^ u, w.r3 ^^^ v⟩

/-- `MixColumns` (42_round_transform.md R205). -/
def mixColumns (b : Block) : Block := ⟨mixColumn b.c0, mixColumn b.c1, mixColumn b.c2, mixColumn b.c3⟩

/-- `InvMixColumns` (42_round_transform.md R207). -/
def invMixColumns (b : Block) : Block := ⟨invMixColumn b.c0, invMixColumn b.c1, invMixColumn b.c2, invMixColumn b.c3⟩

/-- `AddRoundKey` (42_round_transform.md R208). -/
def addRoundKey (b k : Block) : Block := b.xor k

/-- `STATE <- f(STATE)`. -/
def State.mapSt (f : Block → Block) (s : State) : State := { s with st := f s.st }

/-- `STATE_LOAD` (42_round_transform.md R210); SRC_LEN is not read. -/
def execStateLoad (s : State) : Host.Outcome State Fault Refusal :=
  runCommand .stateLoad (firstError [(outOfRange .stateLoad s, .addressRange)])
    (State.mapSt fun _ => blockOf (s.readRegion (s.srcRegion 16))) s

/-- `STATE_STORE` (42_round_transform.md R211). -/
def execStateStore (s : State) : Host.Outcome State Fault Refusal :=
  runCommand .stateStore (firstError [(outOfRange .stateStore s, .addressRange)])
    (fun s => s.memWrite s.dstAddr.toNat s.st.toBytes) s

/-- `SUB_BYTES` (42_round_transform.md R212). -/
def execSubBytes (s : State) : Host.Outcome State Fault Refusal :=
  runCommand .subBytes none (State.mapSt subBytes) s

/-- `INV_SUB_BYTES` (42_round_transform.md R213). -/
def execInvSubBytes (s : State) : Host.Outcome State Fault Refusal :=
  runCommand .invSubBytes none (State.mapSt invSubBytes) s

/-- `SHIFT_ROWS` (42_round_transform.md R214). -/
def execShiftRows (s : State) : Host.Outcome State Fault Refusal :=
  runCommand .shiftRows none (State.mapSt shiftRows) s

/-- `INV_SHIFT_ROWS` (42_round_transform.md R215). -/
def execInvShiftRows (s : State) : Host.Outcome State Fault Refusal :=
  runCommand .invShiftRows none (State.mapSt invShiftRows) s

/-- `MIX_COLUMNS` (42_round_transform.md R216). -/
def execMixColumns (s : State) : Host.Outcome State Fault Refusal :=
  runCommand .mixColumns none (State.mapSt mixColumns) s

/-- `INV_MIX_COLUMNS` (42_round_transform.md R217). -/
def execInvMixColumns (s : State) : Host.Outcome State Fault Refusal :=
  runCommand .invMixColumns none (State.mapSt invMixColumns) s

/-- `ADD_ROUND_KEY r` (42_round_transform.md R218). -/
def execAddRoundKey (r : BitVec 4) (s : State) : Host.Outcome State Fault Refusal :=
  runCommand (.addRoundKey r) (firstError [(noKey s, .keyNotLoaded), (aboveNr r s, .badOperand)])
    (State.mapSt fun b => addRoundKey b (roundKey s.rk r.toNat)) s

end Sys2Proof.Machine
end

