-- ==== Sys2Proof/Machine/BlockCipher.lean ====
section
/-!
DEFINITION. The block cipher datapath (43_block_cipher.md): the functions E and D over the round-key store and the
commands ENC_BLOCK and DEC_BLOCK. The working state W is internal to them (10_state.md R52).
-/

namespace Sys2Proof.Machine

/-- One middle round of E (43_block_cipher.md R241). -/
def encRound (rk : RoundKeys) (w : Block) (i : Nat) : Block :=
  addRoundKey (mixColumns (shiftRows (subBytes w))) (roundKey rk i)

/-- `E(b)` under RK[0..nr] (43_block_cipher.md R241): the middle rounds are `i` in 1..nr-1. -/
def encryptBlock (rk : RoundKeys) (nr : Nat) (b : Block) : Block :=
  let w := (List.range' 1 (nr - 1)).foldl (encRound rk) (addRoundKey b (roundKey rk 0))
  addRoundKey (shiftRows (subBytes w)) (roundKey rk nr)

/-- One middle round of D (43_block_cipher.md R243). -/
def decRound (rk : RoundKeys) (w : Block) (i : Nat) : Block :=
  invSubBytes (invShiftRows (invMixColumns (addRoundKey w (roundKey rk i))))

/-- `D(b)` under RK[0..nr] (43_block_cipher.md R243): the middle rounds are `i` in nr-1 downto 1. -/
def decryptBlock (rk : RoundKeys) (nr : Nat) (b : Block) : Block :=
  let w := (List.range' 1 (nr - 1)).reverse.foldl (decRound rk)
    (invSubBytes (invShiftRows (addRoundKey b (roundKey rk nr))))
  addRoundKey w (roundKey rk 0)

/-- `E` under the key slot (43_block_cipher.md R240). -/
def State.encrypt (s : State) (b : Block) : Block := encryptBlock s.rk s.rounds b

/-- `D` under the key slot (43_block_cipher.md R240). -/
def State.decrypt (s : State) (b : Block) : Block := decryptBlock s.rk s.rounds b

/-- `R[SRC_LEN] ≠ 16` (43_block_cipher.md R245). -/
def badBlockLength (s : State) : Bool := !(s.srcLen == 16)

/-- The checks of ENC_BLOCK and DEC_BLOCK in order (43_block_cipher.md R245, R246). -/
def blockErrors (i : Instr) (s : State) : Option ErrCode :=
  firstError [(noKey s, .keyNotLoaded), (badBlockLength s, .configDataLength), (outOfRange i s, .addressRange)]

/-- The 16-byte input block (43_block_cipher.md R245). -/
def State.srcBlock (s : State) : Block := blockOf (s.readRegion (s.srcRegion 16))

/-- `ENC_BLOCK` (43_block_cipher.md R245). -/
def execEncBlock (s : State) : Host.Outcome State Fault Refusal :=
  runDataCommand .encBlock (blockErrors .encBlock s) (some (s.encrypt s.srcBlock).toBytes) s

/-- `DEC_BLOCK` (43_block_cipher.md R246). -/
def execDecBlock (s : State) : Host.Outcome State Fault Refusal :=
  runDataCommand .decBlock (blockErrors .decBlock s) (some (s.decrypt s.srcBlock).toBytes) s

end Sys2Proof.Machine
end

