-- ==== Sys2Proof/Machine/Padding.lean ====
section
/-!
DEFINITION. The PKCS#7 padding codec (44_padding.md): pad, unpad and the commands PAD and UNPAD.
-/

namespace Sys2Proof.Machine

/-- `rep(k, k)`: `k` bytes each valued `k`. -/
def padBytes (k : Nat) : List Byte := List.replicate k (BitVec.ofNat 8 k)

/-- `pad(data)` (44_padding.md R260). -/
def padData (d : List Byte) : List Byte := d ++ padBytes (padLen d.length)

/-- `unpad(data)`; `none` is a failing unpad (44_padding.md R261). -/
def unpadData (d : List Byte) : Option (List Byte) :=
  let l := d.length
  let k := (d.getD (l - 1) 0).toNat
  if l = 0 then none
  else if k = 0 ∨ 16 < k then none
  else if l < k then none
  else if d.drop (l - k) ≠ padBytes k then none
  else some (d.take (l - k))

/-- `PAD` (44_padding.md R265). -/
def execPad (s : State) : Host.Outcome State Fault Refusal :=
  runDataCommand .pad (firstError [(outOfRange .pad s, .addressRange)]) (some (padData s.srcData)) s

/-- `UNPAD` (44_padding.md R266). -/
def execUnpad (s : State) : Host.Outcome State Fault Refusal :=
  runDataCommand .unpad (firstError [(outOfRange .unpad s, .addressRange)]) (unpadData s.srcData) s

end Sys2Proof.Machine
end

