-- ==== Sys2Proof/Machine/Modes.lean ====
section
/-!
DEFINITION. The chaining-mode controllers (45_modes.md): the ten mode functions over a block function E or D, the
mode commands, and the counter with CTR_INC. The ModeState is the functions' arguments and outlives no command
(10_state.md R52).
-/

namespace Sys2Proof.Machine

/-- The full 16-byte blocks of `d` (45_modes.md R280). -/
def fullBlocks (d : List Byte) : List Block := (splitBlocks (d.length / 16) d).map blockOf

/-- The blocks of `d`, the last one of 1 to 16 bytes: `n = ceil(L/16)` of them (45_modes.md R280). -/
def streamBlocks (d : List Byte) : List (List Byte) := splitBlocks ((d.length + 15) / 16) d

/-- The bytes of a sequence of blocks. -/
def blockBytes (bs : List Block) : List Byte := (bs.map Block.toBytes).flatten

/-- `x ⊕ take(len(x), K)` (45_modes.md R283). -/
def xorPrefix (x : List Byte) (k : Block) : List Byte := xorBytes x (k.toBytes.take x.length)

/-- The block loop of 45_modes.md R285 from `prev`. -/
def cbcEncrypt (e : Block → Block) : Block → List Block → List Block
  | _, [] => []
  | prev, p :: ps => let c := e (p.xor prev); c :: cbcEncrypt e c ps

/-- The block loop of 45_modes.md R286 from `prev`. -/
def cbcDecrypt (d : Block → Block) : Block → List Block → List Block
  | _, [] => []
  | prev, c :: cs => (d c).xor prev :: cbcDecrypt d c cs

/-- The block loop of 45_modes.md R287 from `prevC` and `prevP`. -/
def pcbcEncrypt (e : Block → Block) : Block → Block → List Block → List Block
  | _, _, [] => []
  | prevC, prevP, p :: ps => let c := e ((p.xor prevC).xor prevP); c :: pcbcEncrypt e c p ps

/-- The block loop of 45_modes.md R288 from `prevC` and `prevP`. -/
def pcbcDecrypt (d : Block → Block) : Block → Block → List Block → List Block
  | _, _, [] => []
  | prevC, prevP, c :: cs => let p := ((d c).xor prevC).xor prevP; p :: pcbcDecrypt d c p cs

/-- The block loop of 45_modes.md R289 from `prevC`; a short block is the last one, so its `prevC` is never used. -/
def cfbEncrypt (e : Block → Block) : Block → List (List Byte) → List (List Byte)
  | _, [] => []
  | prevC, x :: xs => let c := xorPrefix x (e prevC); c :: cfbEncrypt e (blockOf c) xs

/-- The block loop of 45_modes.md R290 from `prevC`. -/
def cfbDecrypt (e : Block → Block) : Block → List (List Byte) → List (List Byte)
  | _, [] => []
  | prevC, x :: xs => xorPrefix x (e prevC) :: cfbDecrypt e (blockOf x) xs

/-- `OFB` of 45_modes.md R291 from the keystream block `k`. -/
def ofbBlocks (e : Block → Block) : Block → List (List Byte) → List (List Byte)
  | _, [] => []
  | k, x :: xs => let k' := e k; xorPrefix x k' :: ofbBlocks e k' xs

/-- The block as one 128-bit number, its byte 0 the most significant (45_modes.md R300, 20_memory.md R76). -/
def numberOf (b : Block) : BitVec 128 :=
  b.c0.r0 ++ b.c0.r1 ++ b.c0.r2 ++ b.c0.r3 ++ b.c1.r0 ++ b.c1.r1 ++ b.c1.r2 ++ b.c1.r3 ++
    b.c2.r0 ++ b.c2.r1 ++ b.c2.r2 ++ b.c2.r3 ++ b.c3.r0 ++ b.c3.r1 ++ b.c3.r2 ++ b.c3.r3

/-- Byte `i` of the number `v`, byte 0 the most significant: `(v >> (8·(15-i)))[7:0]` (45_modes.md R300). -/
def numberByte (v : BitVec 128) (i : Nat) : Byte := v.extractLsb' (8 * (15 - i)) 8

/-- The block whose bytes are those of the number `v`, the most significant first (45_modes.md R300). -/
def blockOfNumber (v : BitVec 128) : Block :=
  ⟨⟨numberByte v 0, numberByte v 1, numberByte v 2, numberByte v 3⟩,
   ⟨numberByte v 4, numberByte v 5, numberByte v 6, numberByte v 7⟩,
   ⟨numberByte v 8, numberByte v 9, numberByte v 10, numberByte v 11⟩,
   ⟨numberByte v 12, numberByte v 13, numberByte v 14, numberByte v 15⟩⟩

/-- `inc128(n)` (45_modes.md R300). -/
def inc128 (n : Block) : Block := blockOfNumber (numberOf n + 1)

/-- `CTR` of 45_modes.md R293 from the counter `nonce`. -/
def ctrBlocks (e : Block → Block) : Block → List (List Byte) → List (List Byte)
  | _, [] => []
  | nonce, x :: xs => xorPrefix x (e nonce) :: ctrBlocks e (inc128 nonce) xs

/-- A padded encryption's output for the data `d` (45_modes.md R285, R287). -/
def paddedOutput (loop : List Block → List Block) (d : List Byte) : List Byte :=
  blockBytes (loop (fullBlocks (padData d)))

/-- A padded decryption's output for the data `d`; `none` is a failing unpad (45_modes.md R286, R288). -/
def unpaddedOutput (loop : List Block → List Block) (d : List Byte) : Option (List Byte) :=
  unpadData (blockBytes (loop (fullBlocks d)))

/-- A stream mode's output for the data `d` (45_modes.md R289 to R294). -/
def streamOutput (loop : List (List Byte) → List (List Byte)) (d : List Byte) : List Byte :=
  (loop (streamBlocks d)).flatten

/-- `R[IV_LEN] ≠ 16` (45_modes.md R281). -/
def badIvLength (s : State) : Bool := !(s.ivLen == 16)

/-- `L = 0 or L mod 16 ≠ 0` (45_modes.md R281, R282). -/
def badCiphertextLength (s : State) : Bool := decide (s.len = 0) || !decide (s.len % 16 = 0)

/-- ModeChecks of 45_modes.md R281 for a mode command without a length condition. -/
def modeErrors (i : Instr) (s : State) : Option ErrCode :=
  firstError [(noKey s, .keyNotLoaded), (badIvLength s, .configIvLength), (outOfRange i s, .addressRange)]

/-- ModeChecks of 45_modes.md R281 for DEC_CBC and DEC_PCBC. -/
def paddedDecryptErrors (i : Instr) (s : State) : Option ErrCode :=
  firstError [(noKey s, .keyNotLoaded), (badIvLength s, .configIvLength),
    (badCiphertextLength s, .configDataLength), (outOfRange i s, .addressRange)]

/-- `ENC_CBC` (45_modes.md R285). -/
def execEncCbc (s : State) : Host.Outcome State Fault Refusal :=
  runDataCommand .encCbc (modeErrors .encCbc s) (some (paddedOutput (cbcEncrypt s.encrypt s.iv) s.srcData)) s

/-- `DEC_CBC` (45_modes.md R286). -/
def execDecCbc (s : State) : Host.Outcome State Fault Refusal :=
  runDataCommand .decCbc (paddedDecryptErrors .decCbc s)
    (unpaddedOutput (cbcDecrypt s.decrypt s.iv) s.srcData) s

/-- `ENC_PCBC` (45_modes.md R287). -/
def execEncPcbc (s : State) : Host.Outcome State Fault Refusal :=
  runDataCommand .encPcbc (modeErrors .encPcbc s)
    (some (paddedOutput (pcbcEncrypt s.encrypt s.iv .zero) s.srcData)) s

/-- `DEC_PCBC` (45_modes.md R288). -/
def execDecPcbc (s : State) : Host.Outcome State Fault Refusal :=
  runDataCommand .decPcbc (paddedDecryptErrors .decPcbc s)
    (unpaddedOutput (pcbcDecrypt s.decrypt s.iv .zero) s.srcData) s

/-- `ENC_CFB` (45_modes.md R289). -/
def execEncCfb (s : State) : Host.Outcome State Fault Refusal :=
  runDataCommand .encCfb (modeErrors .encCfb s) (some (streamOutput (cfbEncrypt s.encrypt s.iv) s.srcData)) s

/-- `DEC_CFB` (45_modes.md R290). -/
def execDecCfb (s : State) : Host.Outcome State Fault Refusal :=
  runDataCommand .decCfb (modeErrors .decCfb s) (some (streamOutput (cfbDecrypt s.encrypt s.iv) s.srcData)) s

/-- `ENC_OFB` (45_modes.md R291). -/
def execEncOfb (s : State) : Host.Outcome State Fault Refusal :=
  runDataCommand .encOfb (modeErrors .encOfb s) (some (streamOutput (ofbBlocks s.encrypt s.iv) s.srcData)) s

/-- `DEC_OFB` (45_modes.md R292). -/
def execDecOfb (s : State) : Host.Outcome State Fault Refusal :=
  runDataCommand .decOfb (modeErrors .decOfb s) (some (streamOutput (ofbBlocks s.encrypt s.iv) s.srcData)) s

/-- `ENC_CTR` (45_modes.md R293). -/
def execEncCtr (s : State) : Host.Outcome State Fault Refusal :=
  runDataCommand .encCtr (modeErrors .encCtr s) (some (streamOutput (ctrBlocks s.encrypt s.iv) s.srcData)) s

/-- `DEC_CTR` (45_modes.md R294). -/
def execDecCtr (s : State) : Host.Outcome State Fault Refusal :=
  runDataCommand .decCtr (modeErrors .decCtr s) (some (streamOutput (ctrBlocks s.encrypt s.iv) s.srcData)) s

/-- `CTR_INC` (45_modes.md R301). -/
def execCtrInc (s : State) : Host.Outcome State Fault Refusal :=
  runCommand .ctrInc none (State.mapSt inc128) s

end Sys2Proof.Machine
end

