-- ==== Sys2Proof/Machine/System.lean ====
section
/-!
DEFINITION. The system command NOP (47_system.md R320), the block's only one (R321).
-/

namespace Sys2Proof.Machine

/-- `NOP`: it completes, so it clears STATUS.ERR and ERRCODE (47_system.md R320). -/
def execNop (s : State) : Host.Outcome State Fault Refusal := runCommand .nop none id s

end Sys2Proof.Machine
end

