-- ==== Sys2Proof/Machine/Dispatch.lean ====
section
/-!
DEFINITION. The dispatch of a decoded command to its meaning, one arm per constructor of Instr.
-/

namespace Sys2Proof.Machine

def exec (i : Instr) (s : State) : Host.Outcome State Fault Refusal :=
  match i with
  | .nop => Sys2Proof.Machine.execNop s
  | .gfAdd a b => Sys2Proof.Machine.execGfAdd a b s
  | .gfDouble a => Sys2Proof.Machine.execGfDouble a s
  | .gfMul a b => Sys2Proof.Machine.execGfMul a b s
  | .gfSbox a => Sys2Proof.Machine.execGfSbox a s
  | .gfInvSbox a => Sys2Proof.Machine.execGfInvSbox a s
  | .gfRcon r => Sys2Proof.Machine.execGfRcon r s
  | .keyExpand => Sys2Proof.Machine.execKeyExpand s
  | .rkStore r => Sys2Proof.Machine.execRkStore r s
  | .stateLoad => Sys2Proof.Machine.execStateLoad s
  | .stateStore => Sys2Proof.Machine.execStateStore s
  | .subBytes => Sys2Proof.Machine.execSubBytes s
  | .invSubBytes => Sys2Proof.Machine.execInvSubBytes s
  | .shiftRows => Sys2Proof.Machine.execShiftRows s
  | .invShiftRows => Sys2Proof.Machine.execInvShiftRows s
  | .mixColumns => Sys2Proof.Machine.execMixColumns s
  | .invMixColumns => Sys2Proof.Machine.execInvMixColumns s
  | .addRoundKey r => Sys2Proof.Machine.execAddRoundKey r s
  | .encBlock => Sys2Proof.Machine.execEncBlock s
  | .decBlock => Sys2Proof.Machine.execDecBlock s
  | .pad => Sys2Proof.Machine.execPad s
  | .unpad => Sys2Proof.Machine.execUnpad s
  | .encCbc => Sys2Proof.Machine.execEncCbc s
  | .decCbc => Sys2Proof.Machine.execDecCbc s
  | .encPcbc => Sys2Proof.Machine.execEncPcbc s
  | .decPcbc => Sys2Proof.Machine.execDecPcbc s
  | .encCfb => Sys2Proof.Machine.execEncCfb s
  | .decCfb => Sys2Proof.Machine.execDecCfb s
  | .encOfb => Sys2Proof.Machine.execEncOfb s
  | .decOfb => Sys2Proof.Machine.execDecOfb s
  | .encCtr => Sys2Proof.Machine.execEncCtr s
  | .decCtr => Sys2Proof.Machine.execDecCtr s
  | .ctrInc => Sys2Proof.Machine.execCtrInc s

end Sys2Proof.Machine
end

