-- ==== Sys2Proof/Machine/HostPort.lean ====
section
/-!
DEFINITION. The block's interface to the host: register access (10_state.md R40 to R51), BUF access (20_memory.md
R73), issuing a command word (10_state.md R41) and the reset event (70_reset_and_hazards.md R370).
-/

namespace Sys2Proof.Machine

/-- The number of CMD (10_state.md R40). -/
def regCmd : BitVec 4 := 0x0
/-- The number of STATUS. -/
def regStatus : BitVec 4 := 0x1
/-- The number of KEY_ADDR. -/
def regKeyAddr : BitVec 4 := 0x2
/-- The number of KEY_LEN. -/
def regKeyLen : BitVec 4 := 0x3
/-- The number of IV_ADDR. -/
def regIvAddr : BitVec 4 := 0x4
/-- The number of IV_LEN. -/
def regIvLen : BitVec 4 := 0x5
/-- The number of SRC_ADDR. -/
def regSrcAddr : BitVec 4 := 0x6
/-- The number of SRC_LEN. -/
def regSrcLen : BitVec 4 := 0x7
/-- The number of DST_ADDR. -/
def regDstAddr : BitVec 4 := 0x8
/-- The number of OUT_LEN. -/
def regOutLen : BitVec 4 := 0x9
/-- The number of GF_RESULT. -/
def regGfResult : BitVec 4 := 0xA
/-- The number of ERR_CMD. -/
def regErrCmd : BitVec 4 := 0xB

/-- `RegRead(n)`: CMD and the reserved registers 0xC to 0xF read 0 (10_state.md R41, R50, R51). -/
def regRead (n : BitVec 4) (s : State) : Word :=
  match n with
  | 0x1#4 => s.status.toWord
  | 0x2#4 => s.keyAddr
  | 0x3#4 => s.keyLen
  | 0x4#4 => s.ivAddr
  | 0x5#4 => s.ivLen
  | 0x6#4 => s.srcAddr
  | 0x7#4 => s.srcLen
  | 0x8#4 => s.dstAddr
  | 0x9#4 => s.outLen
  | 0xA#4 => s.gfResult
  | 0xB#4 => s.errCmd
  | _ => 0

/-- `RegWrite(n, v)` for a register other than CMD: a read-write register stores all 32 bits; a write to a read-only
or reserved register has no effect (10_state.md R51). -/
def regStore (n : BitVec 4) (v : Word) (s : State) : State :=
  match n with
  | 0x2#4 => { s with keyAddr := v }
  | 0x3#4 => { s with keyLen := v }
  | 0x4#4 => { s with ivAddr := v }
  | 0x5#4 => { s with ivLen := v }
  | 0x6#4 => { s with srcAddr := v }
  | 0x7#4 => { s with srcLen := v }
  | 0x8#4 => { s with dstAddr := v }
  | _ => s

/-- A command word written to CMD (10_state.md R41): the engine decodes it and executes it as one atomic step, or
raises ILLEGAL_COMMAND, which leaves OUT_LEN unchanged (30_encoding.md R101, 10_state.md R47). -/
def issueCommand (v : Word) (s : State) : Host.Outcome State Fault Refusal :=
  match decode v with
  | .command i => exec i s
  | .illegal _ => .next (s.raiseError v false .illegalCommand)

/-- BUF after a reset that left it holding the bytes `cells` (an address at or above BUF_SIZE is no byte of BUF). -/
def drawnBuf (bufSize : Nat) : List (Nat × Byte) → Memory
  | [] => ⟨[]⟩
  | (a, v) :: rest => if a < bufSize then (drawnBuf bufSize rest).write a v else drawnBuf bufSize rest

/-- The reset event (70_reset_and_hazards.md R370): every register at its reset value, and STATE, RK and BUF at the
values of the draw. The parameters are no state, and what the host has been told and is about to do is the host's.
DEDUCED, log entry 7: safe. -/
def resetBlock (d : ResetDraw) (s : State) : State :=
  { cfg := s.cfg
    status := .reset
    st := d.state
    rk := d.roundKeys
    keyAddr := 0
    keyLen := 0
    ivAddr := 0
    ivLen := 0
    srcAddr := 0
    srcLen := 0
    dstAddr := 0
    outLen := 0
    gfResult := 0
    errCmd := 0
    buf := drawnBuf s.cfg.bufSize d.buf
    pending := s.pending
    replies := s.replies }

/-- A value returned to the host. -/
def State.reply (r : Reply) (s : State) : State := { s with replies := s.replies ++ [r] }

/-- One host action on a block whose BUSY is 0. -/
def idleAction (a : HostAction) (s : State) : Host.Outcome State Fault Refusal :=
  match a with
  | .regWrite n v => if n = regCmd then issueCommand v s else .next (regStore n v s)
  | .regRead n => .next (s.reply (.register (regRead n s)))
  | .bufWrite x v =>
    if x < s.cfg.bufSize then .next { s with buf := s.buf.write x v } else .refused (.bufAccessOutOfRange x)
  | .bufRead x =>
    if x < s.cfg.bufSize then .next (s.reply (.byte (s.buf.read x))) else .refused (.bufAccessOutOfRange x)
  | .reset d => .next (resetBlock d s)

/-- One host action while BUSY is 1: the host may only read STATUS (70_reset_and_hazards.md R375); the platform's reset
is no action of the host and discards the command in progress (R370). DEDUCED, log entry 9: safe. -/
def busyAction (a : HostAction) (s : State) : Host.Outcome State Fault Refusal :=
  match a with
  | .regRead n => if n = regStatus then .next (s.reply (.register (regRead n s))) else .refused .hostActionWhileBusy
  | .reset d => .next (resetBlock d s)
  | .regWrite _ _ | .bufWrite _ _ | .bufRead _ => .refused .hostActionWhileBusy

/-- One action on the block from outside, an atomic step (10_state.md R32). -/
def hostAction (a : HostAction) (s : State) : Host.Outcome State Fault Refusal :=
  if s.status.busy then busyAction a s else idleAction a s

end Sys2Proof.Machine
end

