-- ==== Sys2Proof/Machine/Step.lean ====
section
/-!
DEFINITION. One step of the block: the host's next action (10_state.md R31, R32). The block has no program counter and
fetches no instruction; a command word is "fetched" by being written to CMD.
-/

namespace Sys2Proof.Machine

/-- The next action that the host has pending, taken as one atomic step. With nothing pending the block is idle and
nothing changes (70_reset_and_hazards.md R371). DESIGN CHOICE, log entry 5: safe. -/
def step (s : State) : Host.Outcome State Fault Refusal :=
  match s.pending with
  | [] => .next s
  | a :: rest => hostAction a { s with pending := rest }

/-- The state whose next step runs the command word with the bits `w`: its write to CMD stands before what the host
has pending, and the engine is ready for it (10_state.md R41, 70_reset_and_hazards.md R375). DESIGN CHOICE, log
entries 5 and 19: safe. -/
def State.withFetchWord (s : State) (nbits w : Nat) : State :=
  { s with
    pending := .regWrite regCmd (BitVec.ofNat 32 (w % 2 ^ nbits)) :: s.pending
    status := { s.status with busy := false } }

end Sys2Proof.Machine
end

