-- ==== Sys2Proof/Machine/HostProgram.lean ====
section
/-!
DEFINITION. The host's side of the interface: the host program notation and its pseudo-instructions (30_encoding.md
R111), and the source's five interface calls as command sequences (R110), each a list of host actions.
-/

namespace Sys2Proof.Machine

/-- `CMD <command>`: `WR CMD, <its encoding>` (30_encoding.md R111). -/
def cmd (i : Instr) : List HostAction := [.regWrite regCmd (encode i)]

/-- `BUFW a, <bytes>`: BufWrite of each byte in turn to a, a+1, ... (30_encoding.md R111). -/
def bufw (a : Nat) : List Byte → List HostAction
  | [] => []
  | v :: vs => .bufWrite a v :: bufw (a + 1) vs

/-- `BUFR a, n`: reads n bytes from a (30_encoding.md R111). -/
def bufr (a n : Nat) : List HostAction := (List.range n).map fun i => .bufRead (a + i)

/-- `SETKEY a, n` (30_encoding.md R111). -/
def setkey (a n : Word) : List HostAction := [.regWrite regKeyAddr a, .regWrite regKeyLen n]

/-- `SETIV a, n` (30_encoding.md R111). -/
def setiv (a n : Word) : List HostAction := [.regWrite regIvAddr a, .regWrite regIvLen n]

/-- `SETIO s, n, d` (30_encoding.md R111). -/
def setio (src n d : Word) : List HostAction :=
  [.regWrite regSrcAddr src, .regWrite regSrcLen n, .regWrite regDstAddr d]

/-- `EXPAND a, n` (30_encoding.md R111). -/
def expand (a n : Word) : List HostAction := setkey a n ++ cmd .keyExpand

/-- `WAIT`: in the atomic model one read of STATUS suffices (30_encoding.md R111). -/
def waitIdle : List HostAction := [.regRead regStatus]

/-- `construct(key)` (30_encoding.md R110), the key at `a`. -/
def callConstruct (a : Word) (key : List Byte) : List HostAction :=
  bufw a.toNat key ++ setkey a (BitVec.ofNat 32 key.length) ++ cmd .keyExpand

/-- `encrypt_block(handle, n bytes at src)` to `d` (30_encoding.md R110). -/
def callEncryptBlock (src n d : Word) : List HostAction := setio src n d ++ cmd .encBlock

/-- `decrypt_block(handle, n bytes at src)` to `d` (30_encoding.md R110). -/
def callDecryptBlock (src n d : Word) : List HostAction := setio src n d ++ cmd .decBlock

/-- The chaining modes (30_encoding.md R104). -/
inductive ChainMode where
  | cbc
  | pcbc
  | cfb
  | ofb
  | ctr
deriving DecidableEq, Repr

/-- `ENC_MODE m` (30_encoding.md R109). -/
def encMode : ChainMode → Instr
  | .cbc => .encCbc
  | .pcbc => .encPcbc
  | .cfb => .encCfb
  | .ofb => .encOfb
  | .ctr => .encCtr

/-- `DEC_MODE m` (30_encoding.md R109). -/
def decMode : ChainMode → Instr
  | .cbc => .decCbc
  | .pcbc => .decPcbc
  | .cfb => .decCfb
  | .ofb => .decOfb
  | .ctr => .decCtr

/-- `encrypt_mode(handle, m, n bytes at src, iv at a)` to `d` (30_encoding.md R110). -/
def callEncryptMode (m : ChainMode) (src n d a : Word) : List HostAction :=
  setio src n d ++ setiv a 16 ++ cmd (encMode m)

/-- `decrypt_mode(handle, m, n bytes at src, iv at a)` to `d` (30_encoding.md R110). -/
def callDecryptMode (m : ChainMode) (src n d a : Word) : List HostAction :=
  setio src n d ++ setiv a 16 ++ cmd (decMode m)

end Sys2Proof.Machine
end

