-- ==== Sys2Proof/Safety.lean ====
section
/-!
DEFINITION. What counts as a good state and as a safe step, in the terms the statements use.
-/

namespace Sys2Proof.Machine

/-- The three pairs (NK, NR) of a loaded key (10_state.md R38). -/
def legalKeySize (nk nr : BitVec 4) : Bool :=
  (nk == 4 && nr == 10) || (nk == 6 && nr == 12) || (nk == 8 && nr == 14)

/-- The legal values of STATUS between two host actions (10_state.md R42, R38): BUSY is 0, ERR = 1 exactly when
ERRCODE ≠ 0, an error has been seen if there is one now, and (NK, NR) is a legal pair with a key and (0, 0) without
(DEDUCED, log entry 12: safe). -/
structure Status.Legal (q : Status) : Prop where
  busy : q.busy = false
  err : q.err = true ↔ q.errCode ≠ .noError
  seen : q.err = true → q.errSeen = true
  size : q.keyValid = true → legalKeySize q.nk q.nr = true
  noSize : q.keyValid = false → q.nk = 0 ∧ q.nr = 0

/-- The invariant of the block: legal parameters (00_scope.md R13), a legal STATUS, BUF in canonical form and below
BUF_SIZE (20_memory.md R70), GF_RESULT's bits 31:8 at 0 (10_state.md R48), and OUT_LEN a length that fits in BUF
(10_state.md R47). -/
structure State.Inv (s : State) : Prop where
  cfg : s.cfg.wf = true
  status : s.status.Legal
  bufForm : s.buf.wf
  bufRange : s.buf.within s.cfg.bufSize
  gfResult : s.gfResult.toNat < 256
  outLen : s.outLen.toNat ≤ s.cfg.bufSize

/-- "KEY_VALID = 1 means RK[0..NR] hold the expansion of a key of 4·NK bytes" (10_state.md R38). -/
def State.HoldsKey (s : State) : Prop :=
  s.status.keyValid = true →
    ∃ key : List Byte, key.length = 4 * s.status.nk.toNat ∧ s.rounds = roundsOf s.status.nk.toNat ∧
      ∀ j, j ≤ s.rounds → roundKey s.rk j = (keySchedule key).getD j .zero

/-- The step ends in a next state. -/
def State.Runs (s : State) : Prop := ∃ t, step s = .next t

end Sys2Proof.Machine
end

