-- ==== Sys2Proof/Certificates/Slice0/Obligations.lean ====
section
/-!
DEFINITION. The statements about the model, each from the rules of spec/ that its docstring names, and the few words
they share (namespace Claim), written from the rules and not from the meanings.
-/

namespace Sys2Proof.Claim

open Sys2Proof.Machine

/-- STATUS after a command that completes (60_exceptions.md R334). -/
def done (q : Status) : Status :=
  { busy := false, err := false, errSeen := q.errSeen, keyValid := q.keyValid, errCode := .noError, nk := q.nk, nr := q.nr }

/-- STATUS after a command that raises the error `c` (60_exceptions.md R334). -/
def failed (c : ErrCode) (q : Status) : Status :=
  { busy := false, err := true, errSeen := true, keyValid := q.keyValid, errCode := c, nk := q.nk, nr := q.nr }

/-- The state after the command word `w` raised the error `c`: STATUS and ERR_CMD report it, OUT_LEN is 0 for a data
command, and nothing else changes (60_exceptions.md R334). -/
def errorState (w : Word) (isData : Bool) (c : ErrCode) (s : State) : State :=
  { s with status := failed c s.status, errCmd := w, outLen := if isData = true then 0 else s.outLen }

/-- `InRange(addr, n)` (20_memory.md R74). -/
abbrev InBuf (s : State) (addr : Word) (n : Nat) : Prop := addr.toNat + n ≤ s.cfg.bufSize

/-- `x` is no address of the region `(addr, n)`. -/
abbrev Outside (addr n x : Nat) : Prop := x < addr ∨ addr + n ≤ x

/-- `t` holds the bytes `out` at `addr`, and every byte of BUF outside them as `s` has it. -/
def Wrote (s t : State) (addr : Nat) (out : List Byte) : Prop :=
  t.memRead addr out.length = out ∧ ∀ x, Outside addr out.length x → t.buf.read x = s.buf.read x

/-- `t` is `s` after a data command that completed with the output `out`: `out` at DST_ADDR, its length in OUT_LEN,
STATUS updated, and nothing else changed (45_modes.md R284, 10_state.md R47). -/
def Delivered (s t : State) (out : List Byte) : Prop :=
  t = { s with buf := t.buf, outLen := BitVec.ofNat 32 out.length, status := done s.status } ∧
    Wrote s t s.dstAddr.toNat out

/-- The input of a data command: SRC_LEN bytes at SRC_ADDR. -/
def input (s : State) : List Byte := s.memRead s.srcAddr.toNat s.srcLen.toNat

/-- The IV or initial counter: 16 bytes at IV_ADDR. -/
def ivBlock (s : State) : Block := blockOf (s.memRead s.ivAddr.toNat 16)

/-- `d[16i .. min(16i+16, len(d)))` (45_modes.md R280). -/
def blk (d : List Byte) (i : Nat) : List Byte := (d.drop (16 * i)).take 16

/-- `rep(k, k)` (44_padding.md R260). -/
def rep (k : Nat) : List Byte := List.replicate k (BitVec.ofNat 8 k)

/-- What every mode command needs to run: a key, an IV length of 16, and its input regions in BUF (45_modes.md R281). -/
abbrev ModeReady (s : State) : Prop :=
  s.status.keyValid = true ∧ s.ivLen = 16 ∧ InBuf s s.srcAddr s.srcLen.toNat ∧ InBuf s s.ivAddr 16

/-- The byte in row `r` and column `c` of the matrix view: `STATE[r + 4c]` (10_state.md R36). -/
def cell (b : Block) (r c : Nat) : Byte := b.toBytes.getD (r + 4 * c) 0

/-- A key-using command (60_exceptions.md R333). -/
def usesKey : Instr → Bool
  | .rkStore _ | .addRoundKey _ | .encBlock | .decBlock => true
  | .encCbc | .decCbc | .encPcbc | .decPcbc | .encCfb | .decCfb | .encOfb | .decOfb | .encCtr | .decCtr => true
  | _ => false

/-- A mode command (45_modes.md R280). -/
def isMode : Instr → Bool
  | .encCbc | .decCbc | .encPcbc | .decPcbc | .encCfb | .decCfb | .encOfb | .decOfb | .encCtr | .decCtr => true
  | _ => false

/-- A command that writes STATE (10_state.md R35). -/
def writesState : Instr → Bool
  | .stateLoad | .subBytes | .invSubBytes | .shiftRows | .invShiftRows | .mixColumns | .invMixColumns => true
  | .addRoundKey _ | .ctrInc => true
  | _ => false

/-- A GF command, which writes GF_RESULT (10_state.md R48). -/
def writesGfResult : Instr → Bool
  | .gfAdd _ _ | .gfDouble _ | .gfMul _ _ | .gfSbox _ | .gfInvSbox _ | .gfRcon _ => true
  | _ => false

/-- A command other than a data command that writes BUF: it writes (DST_ADDR, 16) (10_state.md R46). -/
def storesSixteen : Instr → Bool
  | .rkStore _ | .stateStore => true
  | _ => false

/-- The regions that the table of 20_memory.md R75 lists as read, with `L = R[SRC_LEN]`. -/
def regionsRead (i : Instr) (s : State) : List (Word × Nat) :=
  match i with
  | .keyExpand => [(s.keyAddr, s.keyLen.toNat)]
  | .stateLoad | .encBlock | .decBlock => [(s.srcAddr, 16)]
  | .pad | .unpad => [(s.srcAddr, s.srcLen.toNat)]
  | i => if isMode i then [(s.srcAddr, s.srcLen.toNat), (s.ivAddr, 16)] else []

/-- The regions that the table of 20_memory.md R75 lists as written, with `L = R[SRC_LEN]` and `pk = 16 - (L mod 16)`.
-/
def regionsWritten (i : Instr) (s : State) : List (Word × Nat) :=
  match i with
  | .rkStore _ | .stateStore | .encBlock | .decBlock => [(s.dstAddr, 16)]
  | .pad | .encCbc | .encPcbc => [(s.dstAddr, s.srcLen.toNat + (16 - s.srcLen.toNat % 16))]
  | .unpad => [(s.dstAddr, s.srcLen.toNat)]
  | i => if isMode i then [(s.dstAddr, s.srcLen.toNat)] else []

/-- What unpad is applied to: the input of UNPAD, the decrypted blocks of DEC_CBC and DEC_PCBC. -/
def recovered (i : Instr) (s : State) : List Byte :=
  match i with
  | .decCbc => blockBytes (cbcDecrypt s.decrypt (ivBlock s) (fullBlocks (input s)))
  | .decPcbc => blockBytes (pcbcDecrypt s.decrypt (ivBlock s) .zero (fullBlocks (input s)))
  | _ => input s

/-- The cause of each error code in a decoded command (60_exceptions.md R330, R331, R332, R333). -/
def Cause (i : Instr) (s : State) : ErrCode → Prop
  | .noError | .illegalCommand => False
  | .keyNotLoaded => usesKey i = true ∧ s.status.keyValid = false
  | .badOperand =>
    match i with
    | .rkStore r | .addRoundKey r => s.status.nr.toNat < r.toNat
    | .gfRcon a => a.toNat = 0 ∨ 10 < a.toNat
    | _ => False
  | .configKeyLength => i = .keyExpand ∧ s.keyLen.toNat ≠ 16 ∧ s.keyLen.toNat ≠ 24 ∧ s.keyLen.toNat ≠ 32
  | .configIvLength => isMode i = true ∧ s.ivLen.toNat ≠ 16
  | .configDataLength =>
    ((i = .encBlock ∨ i = .decBlock) ∧ s.srcLen.toNat ≠ 16) ∨
      ((i = .decCbc ∨ i = .decPcbc) ∧ (s.srcLen.toNat = 0 ∨ s.srcLen.toNat % 16 ≠ 0))
  | .addressRange => ∃ r ∈ regionsRead i s ++ regionsWritten i s, ¬ InBuf s r.1 r.2
  | .paddingError =>
    (i = .unpad ∨ i = .decCbc ∨ i = .decPcbc) ∧
      ¬ ∃ y k, 1 ≤ k ∧ k ≤ 16 ∧ recovered i s = y ++ rep k

/-- The place of an error code in the priority order of 60_exceptions.md R336. -/
def priority : ErrCode → Nat
  | .noError => 0
  | .illegalCommand => 1
  | .keyNotLoaded => 2
  | .badOperand => 3
  | .configKeyLength => 4
  | .configIvLength => 5
  | .configDataLength => 6
  | .addressRange => 7
  | .paddingError => 8

/-- The table of 40_gf256.md R145 as the spec prints it: row `hi`, column `lo`. -/
def printedS : List (List Byte) :=
  [[0x63, 0x7c, 0x77, 0x7b, 0xf2, 0x6b, 0x6f, 0xc5, 0x30, 0x01, 0x67, 0x2b, 0xfe, 0xd7, 0xab, 0x76],
   [0xca, 0x82, 0xc9, 0x7d, 0xfa, 0x59, 0x47, 0xf0, 0xad, 0xd4, 0xa2, 0xaf, 0x9c, 0xa4, 0x72, 0xc0],
   [0xb7, 0xfd, 0x93, 0x26, 0x36, 0x3f, 0xf7, 0xcc, 0x34, 0xa5, 0xe5, 0xf1, 0x71, 0xd8, 0x31, 0x15],
   [0x04, 0xc7, 0x23, 0xc3, 0x18, 0x96, 0x05, 0x9a, 0x07, 0x12, 0x80, 0xe2, 0xeb, 0x27, 0xb2, 0x75]] ++
  [[0x09, 0x83, 0x2c, 0x1a, 0x1b, 0x6e, 0x5a, 0xa0, 0x52, 0x3b, 0xd6, 0xb3, 0x29, 0xe3, 0x2f, 0x84],
   [0x53, 0xd1, 0x00, 0xed, 0x20, 0xfc, 0xb1, 0x5b, 0x6a, 0xcb, 0xbe, 0x39, 0x4a, 0x4c, 0x58, 0xcf],
   [0xd0, 0xef, 0xaa, 0xfb, 0x43, 0x4d, 0x33, 0x85, 0x45, 0xf9, 0x02, 0x7f, 0x50, 0x3c, 0x9f, 0xa8],
   [0x51, 0xa3, 0x40, 0x8f, 0x92, 0x9d, 0x38, 0xf5, 0xbc, 0xb6, 0xda, 0x21, 0x10, 0xff, 0xf3, 0xd2]] ++
  [[0xcd, 0x0c, 0x13, 0xec, 0x5f, 0x97, 0x44, 0x17, 0xc4, 0xa7, 0x7e, 0x3d, 0x64, 0x5d, 0x19, 0x73],
   [0x60, 0x81, 0x4f, 0xdc, 0x22, 0x2a, 0x90, 0x88, 0x46, 0xee, 0xb8, 0x14, 0xde, 0x5e, 0x0b, 0xdb],
   [0xe0, 0x32, 0x3a, 0x0a, 0x49, 0x06, 0x24, 0x5c, 0xc2, 0xd3, 0xac, 0x62, 0x91, 0x95, 0xe4, 0x79],
   [0xe7, 0xc8, 0x37, 0x6d, 0x8d, 0xd5, 0x4e, 0xa9, 0x6c, 0x56, 0xf4, 0xea, 0x65, 0x7a, 0xae, 0x08]] ++
  [[0xba, 0x78, 0x25, 0x2e, 0x1c, 0xa6, 0xb4, 0xc6, 0xe8, 0xdd, 0x74, 0x1f, 0x4b, 0xbd, 0x8b, 0x8a],
   [0x70, 0x3e, 0xb5, 0x66, 0x48, 0x03, 0xf6, 0x0e, 0x61, 0x35, 0x57, 0xb9, 0x86, 0xc1, 0x1d, 0x9e],
   [0xe1, 0xf8, 0x98, 0x11, 0x69, 0xd9, 0x8e, 0x94, 0x9b, 0x1e, 0x87, 0xe9, 0xce, 0x55, 0x28, 0xdf],
   [0x8c, 0xa1, 0x89, 0x0d, 0xbf, 0xe6, 0x42, 0x68, 0x41, 0x99, 0x2d, 0x0f, 0xb0, 0x54, 0xbb, 0x16]]

/-- The table of 40_gf256.md R146 as the spec prints it: row `hi`, column `lo`. -/
def printedInvS : List (List Byte) :=
  [[0x52, 0x09, 0x6a, 0xd5, 0x30, 0x36, 0xa5, 0x38, 0xbf, 0x40, 0xa3, 0x9e, 0x81, 0xf3, 0xd7, 0xfb],
   [0x7c, 0xe3, 0x39, 0x82, 0x9b, 0x2f, 0xff, 0x87, 0x34, 0x8e, 0x43, 0x44, 0xc4, 0xde, 0xe9, 0xcb],
   [0x54, 0x7b, 0x94, 0x32, 0xa6, 0xc2, 0x23, 0x3d, 0xee, 0x4c, 0x95, 0x0b, 0x42, 0xfa, 0xc3, 0x4e],
   [0x08, 0x2e, 0xa1, 0x66, 0x28, 0xd9, 0x24, 0xb2, 0x76, 0x5b, 0xa2, 0x49, 0x6d, 0x8b, 0xd1, 0x25]] ++
  [[0x72, 0xf8, 0xf6, 0x64, 0x86, 0x68, 0x98, 0x16, 0xd4, 0xa4, 0x5c, 0xcc, 0x5d, 0x65, 0xb6, 0x92],
   [0x6c, 0x70, 0x48, 0x50, 0xfd, 0xed, 0xb9, 0xda, 0x5e, 0x15, 0x46, 0x57, 0xa7, 0x8d, 0x9d, 0x84],
   [0x90, 0xd8, 0xab, 0x00, 0x8c, 0xbc, 0xd3, 0x0a, 0xf7, 0xe4, 0x58, 0x05, 0xb8, 0xb3, 0x45, 0x06],
   [0xd0, 0x2c, 0x1e, 0x8f, 0xca, 0x3f, 0x0f, 0x02, 0xc1, 0xaf, 0xbd, 0x03, 0x01, 0x13, 0x8a, 0x6b]] ++
  [[0x3a, 0x91, 0x11, 0x41, 0x4f, 0x67, 0xdc, 0xea, 0x97, 0xf2, 0xcf, 0xce, 0xf0, 0xb4, 0xe6, 0x73],
   [0x96, 0xac, 0x74, 0x22, 0xe7, 0xad, 0x35, 0x85, 0xe2, 0xf9, 0x37, 0xe8, 0x1c, 0x75, 0xdf, 0x6e],
   [0x47, 0xf1, 0x1a, 0x71, 0x1d, 0x29, 0xc5, 0x89, 0x6f, 0xb7, 0x62, 0x0e, 0xaa, 0x18, 0xbe, 0x1b],
   [0xfc, 0x56, 0x3e, 0x4b, 0xc6, 0xd2, 0x79, 0x20, 0x9a, 0xdb, 0xc0, 0xfe, 0x78, 0xcd, 0x5a, 0xf4]] ++
  [[0x1f, 0xdd, 0xa8, 0x33, 0x88, 0x07, 0xc7, 0x31, 0xb1, 0x12, 0x10, 0x59, 0x27, 0x80, 0xec, 0x5f],
   [0x60, 0x51, 0x7f, 0xa9, 0x19, 0xb5, 0x4a, 0x0d, 0x2d, 0xe5, 0x7a, 0x9f, 0x93, 0xc9, 0x9c, 0xef],
   [0xa0, 0xe0, 0x3b, 0x4d, 0xae, 0x2a, 0xf5, 0xb0, 0xc8, 0xeb, 0xbb, 0x3c, 0x83, 0x53, 0x99, 0x61],
   [0x17, 0x2b, 0x04, 0x7e, 0xba, 0x77, 0xd6, 0x26, 0xe1, 0x69, 0x14, 0x63, 0x55, 0x21, 0x0c, 0x7d]]

/-- The entry in row `hi` and column `lo` of a printed table. -/
def entry (table : List (List Byte)) (hi lo : Nat) : Byte := (table.getD hi []).getD lo 0

/-- The `n` bytes that the hex digits of `v` write, the first byte first (00_scope.md R15). -/
def hexBytes (n v : Nat) : List Byte := (List.range n).map fun i => BitVec.ofNat 8 (v / 256 ^ (n - 1 - i))

/-- The key in BUF at KEY_ADDR, KEY_LEN bytes of it (10_state.md R43). -/
def keyInput (s : State) : List Byte := s.memRead s.keyAddr.toNat s.keyLen.toNat

/-- The number of a big-endian byte sequence (45_modes.md R300). -/
def bigEndian (bytes : List Byte) : Nat := bytes.foldl (fun acc b => 256 * acc + b.toNat) 0

/-- The scan of 45_modes.md R300 from the last byte on: bytes 0xFF become 0x00 until the first other byte, which is
incremented. -/
def scanIncrement : List Byte → List Byte
  | [] => []
  | b :: rest => if b = 0xFF then 0x00 :: scanIncrement rest else (b + 1) :: rest

end Sys2Proof.Claim

open Sys2Proof Sys2Proof.Machine Sys2Proof.Claim

/-! ### Encoding -/

/-- Decoding the word of any command gives the command back, with every operand at every value (30_encoding.md §1 to
§3). -/
def Obligations.DecodeOfEncodeIsTheCommand : Prop := ∀ i : Instr, decode (encode i) = .command i

/-- A word that decodes to a command is that command's one word: no bit of a legal word is ignored (30_encoding.md R101
step 2). -/
def Obligations.EncodeOfDecodeIsTheWord : Prop := ∀ (v : Word) (i : Instr), decode v = .command i → encode i = v

/-- 30_encoding.md §1 (R101; R102, "Decoding is total", which the spec marks as its own derivation): a word decodes to a
command exactly when it matches a row of the table, that row is the command's, and no two rows match one word. -/
def Obligations.DecodingAcceptsExactlyTheTableRows : Prop :=
  (∀ v : Word, (∃ i, decode v = .command i) ∨ (∃ why, decode v = .illegal why)) ∧
  (∀ v : Word, (∃ i, decode v = .command i) ↔ ∃ r ∈ opcodeRows, v &&& r.mask = r.value) ∧
  (∀ (v : Word) (i : Instr), decode v = .command i →
    ∃ r ∈ opcodeRows, r.mnemonic = i.source.mnemonic ∧ v &&& r.mask = r.value) ∧
  opcodeRows.Pairwise fun p q => ∀ v : Word, ¬ (v &&& p.mask = p.value ∧ v &&& q.mask = q.value)

/-- Words written out from the encodings of the rules, one or more of each family, and illegal words of 30_encoding.md
R107 (95_test_vectors.md L2.8). -/
def Obligations.WordsOfTheRulesDecode : Prop :=
  decode 0x00000000 = .command .nop ∧ decode 0x57830012 = .command (.gfMul 0x57 0x83) ∧
  decode 0xFF000011 = .command (.gfDouble 0xFF) ∧ decode 0x00000020 = .command .keyExpand ∧
  decode 0x0000A021 = .command (.rkStore 10) ∧ decode 0x0000F038 = .command (.addRoundKey 15) ∧
  decode 0x00000032 = .command .subBytes ∧ decode 0x00000041 = .command .decBlock ∧
  decode 0x00000049 = .command .unpad ∧ decode 0x00000150 = .command .encPcbc ∧
  decode 0x00000451 = .command .decCtr ∧ decode 0x00000052 = .command .ctrInc ∧
  decode 0x00000060 = .illegal .unassignedOpcode ∧ decode 0x00FF0011 = .illegal .reservedBitSet ∧
  decode 0x00000550 = .illegal .reservedMode ∧ decode 0x00000850 = .illegal .reservedBitSet

/-- 30_encoding.md §4: the assembler gives every command its word, ENC_MODE and DEC_MODE name the mode commands, and an
operand that does not fit its field or an unknown mode name is refused. -/
def Obligations.AssemblerGivesEveryCommandItsWord : Prop :=
  (∀ i : Instr, assemble i.source = some (encode i)) ∧
  (∀ (m : ChainMode) (name : String),
    (m, name) ∈ [(.cbc, "CBC"), (.pcbc, "PCBC"), (.cfb, "CFB"), (.ofb, "OFB"), (.ctr, "CTR")] →
      assemble ⟨"ENC_MODE", [.mode name]⟩ = some (encode (encMode m)) ∧
      assemble ⟨"DEC_MODE", [.mode name]⟩ = some (encode (decMode m))) ∧
  (∀ (mn : String) (a b : Nat), 0xFF < a ∨ 0xFF < b → assemble ⟨mn, [.num a, .num b]⟩ = none) ∧
  (∀ (mn : String) (a : Nat), 0xFF < a → assemble ⟨mn, [.num a]⟩ = none) ∧
  (∀ r : Nat, 15 < r → assemble ⟨"RK_STORE", [.num r]⟩ = none ∧ assemble ⟨"ADD_ROUND_KEY", [.num r]⟩ = none) ∧
  (∀ mn name : String, name ∉ ["CBC", "PCBC", "CFB", "OFB", "CTR"] → assemble ⟨mn, [.mode name]⟩ = none)

/-! ### GF(2^8) arithmetic -/

/-- 40_gf256.md §3 (R150 to R155): each GF command completes with its byte in GF_RESULT, bits 31:8 zero, and changes
nothing else but STATUS; GF_RCON does so for the indexes 1 to 10. -/
def Obligations.GfCommandsPutTheirByteInGfResult : Prop :=
  ∀ (a b : Byte) (s : State),
    exec (.gfAdd a b) s = .next { s with gfResult := (a ^^^ b).setWidth 32, status := done s.status } ∧
    exec (.gfDouble a) s = .next { s with gfResult := (dbl a).setWidth 32, status := done s.status } ∧
    exec (.gfMul a b) s = .next { s with gfResult := (gmul a b).setWidth 32, status := done s.status } ∧
    exec (.gfSbox a) s = .next { s with gfResult := (sbox a).setWidth 32, status := done s.status } ∧
    exec (.gfInvSbox a) s = .next { s with gfResult := (invSbox a).setWidth 32, status := done s.status } ∧
    (1 ≤ a.toNat → a.toNat ≤ 10 →
      exec (.gfRcon a) s = .next { s with gfResult := (rcon a.toNat).setWidth 32, status := done s.status })

/-- 40_gf256.md §1: the laws of gmul (R144, "Laws of gmul the model may rely on", which the spec marks as its own
derivation). -/
def Obligations.GmulIsAFieldMultiplication : Prop :=
  (∀ a b : Byte, gmul a b = gmul b a) ∧ (∀ a : Byte, gmul a 0x01 = a) ∧ (∀ a : Byte, gmul a 0x00 = 0x00) ∧
  (∀ a : Byte, gmul a 0x02 = dbl a) ∧ (∀ a b c : Byte, gmul a (b ^^^ c) = gmul a b ^^^ gmul a c) ∧
  (∀ a b c : Byte, gmul a (gmul b c) = gmul (gmul a b) c) ∧
  (∀ a : Byte, a ≠ 0 → ∃ a', gmul a a' = 0x01 ∧ ∀ x, gmul a x = 0x01 → x = a') ∧
  gmul 0x57 0x83 = 0xC1 ∧ gmul 0x57 0x13 = 0xFE

/-- 40_gf256.md §2: every entry of S and of InvS is the one that the tables of R145 and R146 print; S and InvS are
inverse permutations of the bytes, and S has no fixed point (R147, "S and InvS are inverse permutations of the 256
bytes", which the spec marks as its own derivation). -/
def Obligations.SubstitutionTablesAreInverse : Prop :=
  (∀ hi lo : Nat, hi < 16 → lo < 16 →
    sbox (BitVec.ofNat 8 (16 * hi + lo)) = entry printedS hi lo ∧
    invSbox (BitVec.ofNat 8 (16 * hi + lo)) = entry printedInvS hi lo) ∧
  ∀ a : Byte, invSbox (sbox a) = a ∧ sbox (invSbox a) = a ∧ sbox a ≠ a

/-- 40_gf256.md §2 (R148) and §1 (R142): the doubling formula, and the round constants as the powers of x. -/
def Obligations.RoundConstantsArePowersOfX : Prop :=
  (∀ a : Byte, dbl a = if a.msb = true then (a <<< 1) ^^^ 0x1B else a <<< 1) ∧
  rcon 1 = 0x01 ∧ ∀ i, 1 ≤ i → i ≤ 9 → rcon (i + 1) = dbl (rcon i)

/-! ### Key expander -/

/-- 41_key_schedule.md R171 to R175: the words of the expansion of a 16-, 24- or 32-byte key. -/
def Obligations.KeyExpansionFollowsTheRecurrence : Prop :=
  ∀ key : List Byte, key.length = 16 ∨ key.length = 24 ∨ key.length = 32 →
    ∃ nk nr : Nat, 4 * nk = key.length ∧ (nk, nr) ∈ [(4, 10), (6, 12), (8, 14)] ∧
      (expandKey key).length = 4 * (nr + 1) ∧
      (∀ i, i < nk → ((expandKey key).getD i .zero).toBytes = (key.drop (4 * i)).take 4) ∧
      ∀ i, nk ≤ i → i < 4 * (nr + 1) →
        ∃ temp : Column,
          (expandKey key).getD i .zero = temp.xor ((expandKey key).getD (i - nk) .zero) ∧
          let prev := (expandKey key).getD (i - 1) .zero
          (i % nk = 0 → temp = ⟨sbox prev.r1 ^^^ rcon (i / nk), sbox prev.r2, sbox prev.r3, sbox prev.r0⟩) ∧
          (nk = 8 ∧ i % 8 = 4 → temp = ⟨sbox prev.r0, sbox prev.r1, sbox prev.r2, sbox prev.r3⟩) ∧
          (i % nk ≠ 0 ∧ ¬ (nk = 8 ∧ i % 8 = 4) → temp = prev)

/-- 41_key_schedule.md §1: round key j is the words 4j to 4j+3 (R176), there are Nr + 1 of them, and the first ones hold
the key itself (R178, "RK[0] is the first 16 key bytes", which the spec marks as its own derivation). -/
def Obligations.RoundKeysGroupTheWordsAndOpenWithTheKey : Prop :=
  ∀ key : List Byte, key.length = 16 ∨ key.length = 24 ∨ key.length = 32 →
    (keySchedule key).length = roundsOf (key.length / 4) + 1 ∧
    (∀ j, j ≤ roundsOf (key.length / 4) →
      ((keySchedule key).getD j .zero).toBytes = ((expandKey key).getD (4 * j) .zero).toBytes ++
        ((expandKey key).getD (4 * j + 1) .zero).toBytes ++ ((expandKey key).getD (4 * j + 2) .zero).toBytes ++
        ((expandKey key).getD (4 * j + 3) .zero).toBytes) ∧
    key.take 32 = (((keySchedule key).getD 0 .zero).toBytes ++ ((keySchedule key).getD 1 .zero).toBytes).take key.length

/-- 41_key_schedule.md §2 (R180): KEY_EXPAND with a legal key length and its key in BUF completes; RK[0..Nr] hold the
key's round keys, the entries above keep what they held, the key status is set, and nothing else but STATUS changes. -/
def Obligations.KeyExpandLoadsTheKeySlot : Prop :=
  ∀ s : State, s.keyLen.toNat = 16 ∨ s.keyLen.toNat = 24 ∨ s.keyLen.toNat = 32 → InBuf s s.keyAddr s.keyLen.toNat →
    ∃ (rk : RoundKeys) (nk nr : BitVec 4),
      exec .keyExpand s = .next { s with
        rk := rk
        status := { done s.status with keyValid := true, nk := nk, nr := nr } } ∧
      4 * nk.toNat = s.keyLen.toNat ∧ nr.toNat = roundsOf nk.toNat ∧
      (∀ j, j ≤ nr.toNat →
        roundKey rk j = (keySchedule (s.memRead s.keyAddr.toNat s.keyLen.toNat)).getD j .zero) ∧
      ∀ j, nr.toNat < j → roundKey rk j = roundKey s.rk j

/-! ### Transfers -/

/-- 41_key_schedule.md §2 (R181) and 42_round_transform.md §2 (R211): RK_STORE of an index up to NR with a key loaded,
and STATE_STORE, complete and write their 16 bytes at DST_ADDR and nothing else but STATUS. -/
def Obligations.StoringSixteenBytesAtDstAddr : Prop :=
  ∀ s : State, s.buf.wf → InBuf s s.dstAddr 16 →
    (∀ r : BitVec 4, s.status.keyValid = true → r.toNat ≤ s.status.nr.toNat →
      ∃ t, exec (.rkStore r) s = .next t ∧ t = { s with buf := t.buf, status := done s.status } ∧
        Wrote s t s.dstAddr.toNat (roundKey s.rk r.toNat).toBytes) ∧
    ∃ t, exec .stateStore s = .next t ∧ t = { s with buf := t.buf, status := done s.status } ∧
      Wrote s t s.dstAddr.toNat s.st.toBytes

/-- 42_round_transform.md §2 (R210): STATE_LOAD completes with the 16 bytes at SRC_ADDR in STATE and changes nothing
else but STATUS, whatever SRC_LEN holds. -/
def Obligations.StateLoadCopiesSixteenBytes : Prop :=
  ∀ s : State, InBuf s s.srcAddr 16 →
    ∃ b : Block, exec .stateLoad s = .next { s with st := b, status := done s.status } ∧
      b.toBytes = s.memRead s.srcAddr.toNat 16

/-! ### Round engine -/

/-- 42_round_transform.md §2 (R212 to R218), 45_modes.md §4 (R301): the commands that transform STATE complete, change
STATE by their function, and change nothing else but STATUS; ADD_ROUND_KEY does so with a key loaded and `r ≤ NR`. -/
def Obligations.RoundCommandsTransformTheStateRegister : Prop :=
  ∀ s : State,
    exec .subBytes s = .next { s with st := subBytes s.st, status := done s.status } ∧
    exec .invSubBytes s = .next { s with st := invSubBytes s.st, status := done s.status } ∧
    exec .shiftRows s = .next { s with st := shiftRows s.st, status := done s.status } ∧
    exec .invShiftRows s = .next { s with st := invShiftRows s.st, status := done s.status } ∧
    exec .mixColumns s = .next { s with st := mixColumns s.st, status := done s.status } ∧
    exec .invMixColumns s = .next { s with st := invMixColumns s.st, status := done s.status } ∧
    exec .ctrInc s = .next { s with st := inc128 s.st, status := done s.status } ∧
    ∀ r : BitVec 4, s.status.keyValid = true → r.toNat ≤ s.status.nr.toNat →
      exec (.addRoundKey r) s =
        .next { s with st := addRoundKey s.st (roundKey s.rk r.toNat), status := done s.status }

/-- 42_round_transform.md R201, R202, R203, R204, R208: the transforms that act on bytes and positions, cell by cell. -/
def Obligations.ByteAndRowTransformsByCell : Prop :=
  ∀ (b k : Block) (r c : Nat), r < 4 → c < 4 →
    cell (subBytes b) r c = sbox (cell b r c) ∧ cell (invSubBytes b) r c = invSbox (cell b r c) ∧
    cell (shiftRows b) r c = cell b r ((c + r) % 4) ∧ cell (invShiftRows b) r c = cell b r ((c + 4 - r) % 4) ∧
    cell (addRoundKey b k) r c = cell b r c ^^^ cell k r c

/-- 42_round_transform.md §1: each column of MixColumns and InvMixColumns is the column times the fixed matrix over
GF(2^8) (R206, "The fixed matrix of MixColumns, in terms of gmul", and the matrix of R207, both of which the spec marks
as its own derivation). -/
def Obligations.MixColumnsMultipliesByTheFixedMatrix : Prop :=
  ∀ (b : Block) (c : Nat), c < 4 →
    let a := fun r => cell b r c
    let m := fun r => cell (mixColumns b) r c
    let n := fun r => cell (invMixColumns b) r c
    m 0 = gmul 2 (a 0) ^^^ gmul 3 (a 1) ^^^ gmul 1 (a 2) ^^^ gmul 1 (a 3) ∧
    m 1 = gmul 1 (a 0) ^^^ gmul 2 (a 1) ^^^ gmul 3 (a 2) ^^^ gmul 1 (a 3) ∧
    m 2 = gmul 1 (a 0) ^^^ gmul 1 (a 1) ^^^ gmul 2 (a 2) ^^^ gmul 3 (a 3) ∧
    m 3 = gmul 3 (a 0) ^^^ gmul 1 (a 1) ^^^ gmul 1 (a 2) ^^^ gmul 2 (a 3) ∧
    n 0 = gmul 0x0E (a 0) ^^^ gmul 0x0B (a 1) ^^^ gmul 0x0D (a 2) ^^^ gmul 0x09 (a 3) ∧
    n 1 = gmul 0x09 (a 0) ^^^ gmul 0x0E (a 1) ^^^ gmul 0x0B (a 2) ^^^ gmul 0x0D (a 3) ∧
    n 2 = gmul 0x0D (a 0) ^^^ gmul 0x09 (a 1) ^^^ gmul 0x0E (a 2) ^^^ gmul 0x0B (a 3) ∧
    n 3 = gmul 0x0B (a 0) ^^^ gmul 0x0D (a 1) ^^^ gmul 0x09 (a 2) ^^^ gmul 0x0E (a 3)

/-- 42_round_transform.md §1: the inverse laws, that SubBytes and ShiftRows commute, and that MixColumns is linear
(R209, "Inverse laws, as the source's contract requires", which the spec marks as its own derivation). -/
def Obligations.TransformsUndoTheirInverses : Prop :=
  ∀ b k x : Block,
    invSubBytes (subBytes b) = b ∧ subBytes (invSubBytes b) = b ∧
    invShiftRows (shiftRows b) = b ∧ shiftRows (invShiftRows b) = b ∧
    invMixColumns (mixColumns b) = b ∧ mixColumns (invMixColumns b) = b ∧
    addRoundKey (addRoundKey b k) k = b ∧ subBytes (shiftRows b) = shiftRows (subBytes b) ∧
    mixColumns (b.xor x) = (mixColumns b).xor (mixColumns x)

/-! ### Block cipher -/

/-- 43_block_cipher.md R241 and R243: E and D round by round, W i being the working state after round i of E, and V i
the one that round i of D starts from. -/
def Obligations.CipherAppliesItsRoundsInOrder : Prop :=
  ∀ (rk : RoundKeys) (nr : Nat) (b : Block), 1 ≤ nr →
    (∃ w : Nat → Block, w 0 = addRoundKey b (roundKey rk 0) ∧
      (∀ i, 1 ≤ i → i ≤ nr - 1 →
        w i = addRoundKey (mixColumns (shiftRows (subBytes (w (i - 1))))) (roundKey rk i)) ∧
      encryptBlock rk nr b = addRoundKey (shiftRows (subBytes (w (nr - 1)))) (roundKey rk nr)) ∧
    ∃ v : Nat → Block, v (nr - 1) = invSubBytes (invShiftRows (addRoundKey b (roundKey rk nr))) ∧
      (∀ i, 1 ≤ i → i ≤ nr - 1 →
        v (i - 1) = invSubBytes (invShiftRows (invMixColumns (addRoundKey (v i) (roundKey rk i))))) ∧
      decryptBlock rk nr b = addRoundKey (v 0) (roundKey rk 0)

/-- 43_block_cipher.md §1: D undoes E and E undoes D, for every block, every round-key store and every round count, so
E is a permutation of the blocks (R244, "D(E(b)) = b", which the spec marks as its own derivation). -/
def Obligations.DecryptionUndoesEncryption : Prop :=
  ∀ (rk : RoundKeys) (nr : Nat),
    (∀ b, decryptBlock rk nr (encryptBlock rk nr b) = b) ∧ (∀ b, encryptBlock rk nr (decryptBlock rk nr b) = b) ∧
    Function.Bijective (encryptBlock rk nr)

/-- 43_block_cipher.md §2 (R245, R246): ENC_BLOCK and DEC_BLOCK with a key loaded, SRC_LEN = 16 and both regions in
BUF complete, deliver E or D of the input block at DST_ADDR with OUT_LEN = 16, and change nothing else but STATUS,
whether or not the regions overlap. -/
def Obligations.BlockCommandsDeliverTheCipherBlock : Prop :=
  ∀ s : State, s.buf.wf → s.status.keyValid = true → s.srcLen = 16 → InBuf s s.srcAddr 16 → InBuf s s.dstAddr 16 →
    (∃ t, exec .encBlock s = .next t ∧
      Delivered s t (encryptBlock s.rk s.status.nr.toNat (blockOf (s.memRead s.srcAddr.toNat 16))).toBytes) ∧
    ∃ t, exec .decBlock s = .next t ∧
      Delivered s t (decryptBlock s.rk s.status.nr.toNat (blockOf (s.memRead s.srcAddr.toNat 16))).toBytes

/-! ### Padding -/

/-- 44_padding.md §1 (R262, "unpad(pad(x)) = x", which the spec marks as its own derivation): unpad undoes pad, pad
never leaves data unchanged, its length is in 1..16 and every padding byte is that length; unpad accepts exactly the
sequences that end in k bytes k with k in 1..16; and the source's examples. -/
def Obligations.UnpadAcceptsExactlyPaddedData : Prop :=
  (∀ x : List Byte, unpadData (padData x) = some x ∧ padData x ≠ x) ∧
  (∀ x : List Byte, ∃ k, 1 ≤ k ∧ k ≤ 16 ∧ padData x = x ++ rep k ∧ (x.length + k) % 16 = 0) ∧
  (∀ d y : List Byte, unpadData d = some y ↔ ∃ k, 1 ≤ k ∧ k ≤ 16 ∧ d = y ++ rep k) ∧
  padData [] = rep 16 ∧ unpadData (rep 16) = some [] ∧ ∀ x : List Byte, x.length = 16 → padData x = x ++ rep 16

/-- 44_padding.md §2 (R265, R266): PAD delivers the input followed by k bytes k, k = 16 - (L mod 16); UNPAD of an input
that ends in k bytes k with k in 1..16 delivers what stands before them. Neither needs a key. -/
def Obligations.PaddingCommandsDeliverTheirData : Prop :=
  ∀ s : State, s.buf.wf → InBuf s s.srcAddr s.srcLen.toNat →
    (InBuf s s.dstAddr (s.srcLen.toNat + (16 - s.srcLen.toNat % 16)) →
      ∃ t, exec .pad s = .next t ∧ Delivered s t (input s ++ rep (16 - s.srcLen.toNat % 16))) ∧
    ∀ (y : List Byte) (k : Nat), InBuf s s.dstAddr s.srcLen.toNat → 1 ≤ k → k ≤ 16 → input s = y ++ rep k →
      ∃ t, exec .unpad s = .next t ∧ Delivered s t y

/-! ### Chaining modes -/

/-- 45_modes.md §2 (R285, R287): ENC_CBC and ENC_PCBC complete and deliver, for the padded input p, the blocks
c[i] = E(p[i] ⊕ c[i-1]) and c[i] = E(p[i] ⊕ c[i-1] ⊕ p[i-1]), with c[-1] the IV and p[-1] sixteen zero bytes. -/
def Obligations.PaddedEncryptionChainsItsBlocks : Prop :=
  ∀ s : State, s.buf.wf → ModeReady s → InBuf s s.dstAddr (s.srcLen.toNat + (16 - s.srcLen.toNat % 16)) →
    let p := input s ++ rep (16 - s.srcLen.toNat % 16)
    (∃ t out, exec .encCbc s = .next t ∧ Delivered s t out ∧ out.length = p.length ∧
      ∀ i, 16 * i < p.length →
        blk out i = (s.encrypt ((blockOf (blk p i)).xor
          (if i = 0 then ivBlock s else blockOf (blk out (i - 1))))).toBytes) ∧
    ∃ t out, exec .encPcbc s = .next t ∧ Delivered s t out ∧ out.length = p.length ∧
      ∀ i, 16 * i < p.length →
        blk out i = (s.encrypt (((blockOf (blk p i)).xor
          (if i = 0 then ivBlock s else blockOf (blk out (i - 1)))).xor
            (if i = 0 then .zero else blockOf (blk p (i - 1))))).toBytes

/-- 45_modes.md §2 (R286, R288): DEC_CBC and DEC_PCBC of a non-zero multiple of 16 bytes whose recovered bytes q end in
k bytes k complete and deliver what stands before them; q[i] = D(c[i]) ⊕ c[i-1], and for PCBC ⊕ q[i-1] as well. -/
def Obligations.PaddedDecryptionRecoversItsBlocks : Prop :=
  ∀ (s : State) (q y : List Byte) (k : Nat), s.buf.wf → ModeReady s → InBuf s s.dstAddr s.srcLen.toNat →
    s.srcLen.toNat ≠ 0 → s.srcLen.toNat % 16 = 0 → q.length = s.srcLen.toNat →
    1 ≤ k → k ≤ 16 → q = y ++ rep k →
    ((∀ i, 16 * i < q.length →
        blk q i = ((s.decrypt (blockOf (blk (input s) i))).xor
          (if i = 0 then ivBlock s else blockOf (blk (input s) (i - 1)))).toBytes) →
      ∃ t, exec .decCbc s = .next t ∧ Delivered s t y) ∧
    ((∀ i, 16 * i < q.length →
        blk q i = (((s.decrypt (blockOf (blk (input s) i))).xor
          (if i = 0 then ivBlock s else blockOf (blk (input s) (i - 1)))).xor
            (if i = 0 then .zero else blockOf (blk q (i - 1)))).toBytes) →
      ∃ t, exec .decPcbc s = .next t ∧ Delivered s t y)

/-- 45_modes.md §2 (R289, R290) and §1 (R283): ENC_CFB and DEC_CFB of any length complete and deliver
x[i] ⊕ take(len(x[i]), E(previous ciphertext block)), the IV before the first. -/
def Obligations.CfbFeedsBackTheCiphertext : Prop :=
  ∀ s : State, s.buf.wf → ModeReady s → InBuf s s.dstAddr s.srcLen.toNat →
    (∃ t out, exec .encCfb s = .next t ∧ Delivered s t out ∧ out.length = s.srcLen.toNat ∧
      ∀ i, 16 * i < s.srcLen.toNat →
        blk out i = xorBytes (blk (input s) i) ((s.encrypt
          (if i = 0 then ivBlock s else blockOf (blk out (i - 1)))).toBytes.take (blk (input s) i).length)) ∧
    ∃ t out, exec .decCfb s = .next t ∧ Delivered s t out ∧ out.length = s.srcLen.toNat ∧
      ∀ i, 16 * i < s.srcLen.toNat →
        blk out i = xorBytes (blk (input s) i) ((s.encrypt
          (if i = 0 then ivBlock s else blockOf (blk (input s) (i - 1)))).toBytes.take (blk (input s) i).length)

/-- 45_modes.md §2 (R291, R292) and §1 (R283): ENC_OFB and DEC_OFB of any length complete and deliver the input ⊕ the
keystream k[i] = E(k[i-1]), k[-1] the IV: one formula in both directions. -/
def Obligations.OfbChainsItsKeystream : Prop :=
  ∀ (s : State) (i₀ : Instr), i₀ = .encOfb ∨ i₀ = .decOfb → s.buf.wf → ModeReady s → InBuf s s.dstAddr s.srcLen.toNat →
    ∃ (t : State) (out : List Byte) (k : Nat → Block), exec i₀ s = .next t ∧ Delivered s t out ∧
      out.length = s.srcLen.toNat ∧ k 0 = s.encrypt (ivBlock s) ∧ (∀ i, k (i + 1) = s.encrypt (k i)) ∧
      ∀ i, 16 * i < s.srcLen.toNat →
        blk out i = xorBytes (blk (input s) i) ((k i).toBytes.take (blk (input s) i).length)

/-- 45_modes.md §2 (R293, R294) and §1 (R283): ENC_CTR and DEC_CTR of any length complete and deliver the input ⊕
E(nonce_i), nonce_0 the IV and nonce_{i+1} = inc128(nonce_i): one formula in both directions. -/
def Obligations.CtrCountsItsNonces : Prop :=
  ∀ (s : State) (i₀ : Instr), i₀ = .encCtr ∨ i₀ = .decCtr → s.buf.wf → ModeReady s → InBuf s s.dstAddr s.srcLen.toNat →
    ∃ (t : State) (out : List Byte) (nonce : Nat → Block), exec i₀ s = .next t ∧ Delivered s t out ∧
      out.length = s.srcLen.toNat ∧ nonce 0 = ivBlock s ∧ (∀ i, nonce (i + 1) = inc128 (nonce i)) ∧
      ∀ i, 16 * i < s.srcLen.toNat →
        blk out i = xorBytes (blk (input s) i) ((s.encrypt (nonce i)).toBytes.take (blk (input s) i).length)

/-- 45_modes.md §3 (R295, "Round trip" and "Determinism", which the spec marks as its own derivation): in every mode,
decrypting what an encryption delivered, with the same key and IV, completes and gives the original data back; and two
encryptions with the same key, data and IV deliver the same bytes. -/
def Obligations.EveryModeRoundTrips : Prop :=
  (∀ (m : ChainMode) (s t : State) (d : Word), s.cfg.wf = true → s.buf.wf →
    exec (encMode m) s = .next t → t.status.err = false →
    d.toNat + t.outLen.toNat ≤ s.cfg.bufSize → ivBlock t = ivBlock s →
    ∃ v, exec (decMode m) { t with srcAddr := t.dstAddr, srcLen := t.outLen, dstAddr := d } = .next v ∧
      v.status.err = false ∧ v.outLen = s.srcLen ∧ v.memRead d.toNat s.srcLen.toNat = input s) ∧
  ∀ (m : ChainMode) (s s' t t' : State), s.cfg.wf = true → s.buf.wf → s'.cfg.wf = true → s'.buf.wf →
    exec (encMode m) s = .next t → t.status.err = false → exec (encMode m) s' = .next t' → t'.status.err = false →
    s'.rk = s.rk → s'.status.nr = s.status.nr → s'.srcLen = s.srcLen → input s' = input s → ivBlock s' = ivBlock s →
    t'.outLen = t.outLen ∧
      t'.memRead s'.dstAddr.toNat t'.outLen.toNat = t.memRead s.dstAddr.toNat t.outLen.toNat

/-- 45_modes.md §3 (R296, "Tamper signal", which the spec marks as its own derivation): with the final ciphertext
block changed and everything else the same, DEC_CBC never delivers the data it delivered before. -/
def Obligations.CbcTamperingNeverGivesTheOriginal : Prop :=
  ∀ (s s' t t' : State) (front : List Byte) (c c' : Block), s.cfg.wf = true → s.buf.wf → s'.buf.wf →
    s'.cfg = s.cfg → s'.rk = s.rk → s'.status.nr = s.status.nr → ivBlock s' = ivBlock s →
    input s = front ++ c.toBytes → input s' = front ++ c'.toBytes → c ≠ c' →
    exec .decCbc s = .next t → t.status.err = false → exec .decCbc s' = .next t' → t'.status.err = false →
    t'.memRead s'.dstAddr.toNat t'.outLen.toNat ≠ t.memRead s.dstAddr.toNat t.outLen.toNat

/-- 45_modes.md R300: inc128 adds one to the 128-bit big-endian number, modulo 2^128, and equals the scan from the
rightmost byte. -/
def Obligations.CounterIncrementIsBigEndianWithWrap : Prop :=
  ∀ n : Block, bigEndian (inc128 n).toBytes = (bigEndian n.toBytes + 1) % 2 ^ 128 ∧
    (inc128 n).toBytes = (scanIncrement n.toBytes.reverse).reverse

/-! ### System -/

/-- 47_system.md (R320): NOP completes, so ERR and ERRCODE become 0, and nothing else changes: ERR_SEEN, OUT_LEN,
GF_RESULT and ERR_CMD keep their values. -/
def Obligations.NopOnlyClearsTheLastError : Prop :=
  ∀ s : State, exec .nop s = .next { s with status := done s.status }

/-! ### Errors -/

/-- 60_exceptions.md R334: every command word ends in exactly one of two ways. It completes, with ERR, ERRCODE and
BUSY 0 and ERR_SEEN and ERR_CMD as they were, or it raises one error code and the state is the one before with only
the status of the error in it, OUT_LEN 0 if the word decoded to a data command. -/
def Obligations.EveryWordCompletesOrRaisesOneError : Prop :=
  ∀ (v : Word) (s : State), ∃ t, issueCommand v s = .next t ∧
    ((t.status.err = false ∧ t.status.errCode = .noError ∧ t.status.busy = false ∧
        t.status.errSeen = s.status.errSeen ∧ t.errCmd = s.errCmd) ∨
      ∃ (c : ErrCode) (isData : Bool), c ≠ .noError ∧ t = errorState v isData c s ∧
        (isData = true ↔ ∃ i, decode v = .command i ∧ i.isData = true))

/-- 60_exceptions.md R336, with the causes of R330 to R333: an illegal word reports ILLEGAL_COMMAND, before anything
else; a command with a cause reports the first one in the priority order; and a command with none completes. -/
def Obligations.TheFirstErrorInPriorityOrderIsReported : Prop :=
  (∀ (v : Word) (s : State) (why : IllegalWord), decode v = .illegal why →
    issueCommand v s = .next (errorState v false .illegalCommand s)) ∧
  ∀ (i : Instr) (s : State),
    (∀ c, Cause i s c → (∀ c', priority c' < priority c → ¬ Cause i s c') →
      exec i s = .next (errorState (encode i) i.isData c s)) ∧
    ((∀ c, ¬ Cause i s c) → ∃ t, exec i s = .next t ∧ t.status.err = false ∧ t.status.errCode = .noError)

/-- 10_state.md R49: a command word that raises an error is written whole to ERR_CMD, an illegal one included, and a
command that completes leaves ERR_CMD unchanged; ERR_CMD is register 0xB, read-only to the host, and 0 after reset. -/
def Obligations.ErrCmdHoldsTheWholeFailingWord : Prop :=
  (∀ (v : Word) (s t : State), issueCommand v s = .next t →
    t.errCmd = if t.status.err = true then v else s.errCmd) ∧
  (∀ (v : Word) (s : State), regRead 0xB s = s.errCmd ∧
    (s.status.busy = false → hostAction (.regWrite 0xB v) s = .next s)) ∧
  State.reset.errCmd = 0 ∧ ∀ (d : ResetDraw) (s t : State), hostAction (.reset d) s = .next t → t.errCmd = 0

/-! ### Frames -/

/-- 10_state.md §3 (R43 to R46): no command writes a register that the host writes. That the parameters, what the
host is about to do and what it has been told are fields of State, which no command writes either, is the model's choice
(log entries 4, 5 and 6). -/
def Obligations.NoCommandWritesTheHostsRegisters : Prop :=
  ∀ (i : Instr) (s t : State), exec i s = .next t →
    t.keyAddr = s.keyAddr ∧ t.keyLen = s.keyLen ∧ t.ivAddr = s.ivAddr ∧ t.ivLen = s.ivLen ∧
    t.srcAddr = s.srcAddr ∧ t.srcLen = s.srcLen ∧ t.dstAddr = s.dstAddr ∧
    t.cfg = s.cfg ∧ t.pending = s.pending ∧ t.replies = s.replies

/-- 10_state.md §2 and §3 (R35, R37, R38, R47, R48): only KEY_EXPAND changes the key slot, only a data command OUT_LEN,
only a GF command GF_RESULT, and only the commands of R35 STATE. -/
def Obligations.EachSpecialRegisterHasItsOwnCommands : Prop :=
  ∀ (i : Instr) (s t : State), exec i s = .next t →
    (i ≠ .keyExpand → t.rk = s.rk ∧ t.status.keyValid = s.status.keyValid ∧ t.status.nk = s.status.nk ∧
      t.status.nr = s.status.nr) ∧
    (i.isData = false → t.outLen = s.outLen) ∧ (writesGfResult i = false → t.gfResult = s.gfResult) ∧
    (writesState i = false → t.st = s.st)

/-- 10_state.md §4 (R53): a command writes ERR and ERRCODE, sets ERR_SEEN with an error and otherwise leaves it, and
ends with BUSY 0. -/
def Obligations.CommandsUpdateTheFlags : Prop :=
  ∀ (i : Instr) (s t : State), exec i s = .next t →
    t.status.busy = false ∧ (t.status.err = true ↔ t.status.errCode ≠ .noError) ∧
    t.status.errSeen = (s.status.errSeen || t.status.err)

/-- 20_memory.md §3 (R80): a command that stores nothing leaves every byte of BUF; RK_STORE and STATE_STORE leave every
byte outside (DST_ADDR, 16); a data command leaves every byte outside (DST_ADDR, OUT_LEN), OUT_LEN being what it reports
(0 with an error). -/
def Obligations.CommandsLeaveTheRestOfBuf : Prop :=
  ∀ (i : Instr) (s t : State), s.cfg.wf = true → exec i s = .next t →
    (i.isData = false → storesSixteen i = false → ∀ x, t.buf.read x = s.buf.read x) ∧
    (storesSixteen i = true → ∀ x, Outside s.dstAddr.toNat 16 x → t.buf.read x = s.buf.read x) ∧
    (i.isData = true → ∀ x, Outside s.dstAddr.toNat t.outLen.toNat x → t.buf.read x = s.buf.read x)

/-! ### Steps -/

/-- 10_state.md §3 (R41): the write of a command word to CMD, at the head of the host's actions, runs the command it
decodes to as one step. The model's choice: that the host's actions stand in a list (log entry 5), and the second
clause, that the word of a table row, modulo 2^nbits, placed by withFetchWord, which sets BUSY to 0, is run too (log
entries 5 and 19). -/
def Obligations.StepRunsTheDecodedCommand : Prop :=
  (∀ (s : State) (v : Word) (rest : List HostAction) (i : Instr), s.status.busy = false →
    s.pending = .regWrite 0x0 v :: rest → decode v = .command i → step s = exec i { s with pending := rest }) ∧
  ∀ (s : State) (nbits w : Nat) (i : Instr), decodeTableWord nbits w = some i →
    step (s.withFetchWord nbits w) = exec i { s with status := { s.status with busy := false } }

/-- 30_encoding.md §3 (R107): an illegal word written to CMD raises ILLEGAL_COMMAND and changes nothing but STATUS and
ERR_CMD. That the host's actions stand in a list is the model's choice (log entry 5). -/
def Obligations.StepOfAnIllegalWordOnlyReports : Prop :=
  ∀ (s : State) (v : Word) (rest : List HostAction) (why : IllegalWord), s.status.busy = false →
    s.pending = .regWrite 0x0 v :: rest → decode v = .illegal why →
      step s = .next { s with pending := rest, status := failed .illegalCommand s.status, errCmd := v }

/-- 10_state.md §3 (R43 to R46, R50, R51): a host write to a read-write register stores all 32 bits, which read back
unchanged, and a write to a read-only or reserved register has no effect. That the host's actions stand in a list is the
model's choice (log entry 5). -/
def Obligations.HostWritesReachOnlyReadWriteRegisters : Prop :=
  ∀ (s : State) (n : BitVec 4) (v : Word) (rest : List HostAction), s.status.busy = false →
    s.pending = .regWrite n v :: rest → n ≠ 0x0 →
      ∃ t, step s = .next t ∧
        t = { s with
          pending := rest
          keyAddr := if n = 0x2 then v else s.keyAddr
          keyLen := if n = 0x3 then v else s.keyLen
          ivAddr := if n = 0x4 then v else s.ivAddr
          ivLen := if n = 0x5 then v else s.ivLen
          srcAddr := if n = 0x6 then v else s.srcAddr
          srcLen := if n = 0x7 then v else s.srcLen
          dstAddr := if n = 0x8 then v else s.dstAddr } ∧
        (0x2 ≤ n.toNat ∧ n.toNat ≤ 0x8 → regRead n t = v)

/-- 10_state.md §3 (R40, R41, R50, R51): a host read returns the register's value, 0 for CMD and the reserved
registers, and has no side effect. That the value is appended to replies, and that the host's actions stand in a list,
is the model's choice (log entries 6 and 5). -/
def Obligations.HostReadsReturnTheRegister : Prop :=
  ∀ (s : State) (n : BitVec 4) (rest : List HostAction), s.status.busy = false → s.pending = .regRead n :: rest →
    step s = .next { s with
      pending := rest
      replies := s.replies ++ [.register
        ([0, s.status.toWord, s.keyAddr, s.keyLen, s.ivAddr, s.ivLen, s.srcAddr, s.srcLen, s.dstAddr, s.outLen,
          s.gfResult, s.errCmd, 0, 0, 0, 0].getD n.toNat 0)] }

/-- 10_state.md §3 (R42) and 60_exceptions.md §1 (R330): the fields of STATUS stand at their bits, the reserved bits
read 0, and the error codes have their numbers. -/
def Obligations.StatusFieldsStandAtTheirBits : Prop :=
  ∀ q : Status,
    q.toWord.getLsbD 0 = q.busy ∧ q.toWord.getLsbD 1 = q.err ∧ q.toWord.getLsbD 2 = q.errSeen ∧
    q.toWord.getLsbD 3 = q.keyValid ∧ q.toWord.extractLsb' 4 4 = 0 ∧ q.toWord.extractLsb' 24 8 = 0 ∧
    q.toWord.extractLsb' 16 4 = q.nk ∧ q.toWord.extractLsb' 20 4 = q.nr ∧
    (q.errCode, q.toWord.extractLsb' 8 8) ∈
      [(ErrCode.noError, (0x00 : Byte)), (.configKeyLength, 0x01), (.configIvLength, 0x02), (.configDataLength, 0x03),
        (.paddingError, 0x04), (.illegalCommand, 0x10), (.keyNotLoaded, 0x11), (.badOperand, 0x12),
        (.addressRange, 0x13)]

/-- 20_memory.md §1 (R73): a host write to a byte of BUF sets that byte and no other, a read returns the byte and
changes nothing, and an access at or above BUF_SIZE is no move of the interface. The model's choice: that the byte
read is appended to replies (log entry 6), that an access at or above BUF_SIZE is refused by name (log entry 8), and
that the host's actions stand in a list (log entry 5). -/
def Obligations.HostReachesTheBytesOfBuf : Prop :=
  ∀ (s : State) (x : Nat) (v : Byte) (rest : List HostAction), s.status.busy = false → s.buf.wf →
    (s.pending = .bufWrite x v :: rest → x < s.cfg.bufSize →
      ∃ t, step s = .next t ∧ t = { s with pending := rest, buf := t.buf } ∧ t.buf.read x = v ∧
        ∀ y, y ≠ x → t.buf.read y = s.buf.read y) ∧
    (s.pending = .bufRead x :: rest → x < s.cfg.bufSize →
      step s = .next { s with pending := rest, replies := s.replies ++ [.byte (s.buf.read x)] }) ∧
    (s.pending = .bufWrite x v :: rest ∨ s.pending = .bufRead x :: rest → s.cfg.bufSize ≤ x →
      step s = .refused (.bufAccessOutOfRange x))

/-- 70_reset_and_hazards.md §1 (R370): the reset event takes the block to a state in which every register reads 0 (no
key, no error), and STATE, RK and BUF can hold any values. The model's inferences and choices: that a reset event
exists for every draw of those values, and that it leaves the parameters, what the host has pending and what it has
been told (log entry 7), that it is taken while BUSY is 1 as well (log entry 9), and that these three are fields of
State (log entries 4, 5 and 6). -/
def Obligations.ResetClearsTheRegistersAndNothingElseIsFixed : Prop :=
  (∀ (s : State) (d : ResetDraw) (rest : List HostAction), s.pending = .reset d :: rest →
    ∃ t, step s = .next t ∧ (∀ n, regRead n t = 0) ∧ t.status.keyValid = false ∧ t.status.busy = false ∧
      t.status.errCode = .noError ∧ t.pending = rest ∧ t.cfg = s.cfg ∧ t.replies = s.replies) ∧
  ∀ (s : State) (rest : List HostAction) (st : Block) (rk : RoundKeys) (byte : Nat → Byte),
    ∃ d t, step { s with pending := .reset d :: rest } = .next t ∧ t.st = st ∧ t.rk = rk ∧
      ∀ x, x < s.cfg.bufSize → t.buf.read x = byte x

/-- 70_reset_and_hazards.md §1 and §3 (R371, R375): the block is idle until the host acts, and while BUSY is 1 the
host may only read STATUS. The model's choice: that a step with nothing pending answers the same state (log entry 5),
that any other action of the host while BUSY is 1 is refused by name (log entry 9), and that the value read is
appended to replies (log entry 6). -/
def Obligations.IdleStepsChangeNothingAndBusyOnesRefuse : Prop :=
  (∀ s : State, s.pending = [] → step s = .next s) ∧
  (∀ (s : State) (rest : List HostAction), s.status.busy = true → s.pending = .regRead 0x1 :: rest →
    step s = .next { s with pending := rest, replies := s.replies ++ [.register s.status.toWord] }) ∧
  ∀ (s : State) (a : HostAction) (rest : List HostAction), s.status.busy = true → s.pending = a :: rest →
    (∀ d, a ≠ .reset d) → a ≠ .regRead 0x1 → step s = .refused .hostActionWhileBusy

/-! ### Invariants -/

/-- The state after reset meets the invariant, holds no error and no key (70_reset_and_hazards.md §1; the values of
STATE, RK and BUF there are the model's choice, log entries 1 and 2, and nothing here rests on them). -/
def Obligations.ResetStateMeetsTheInvariant : Prop :=
  State.reset.Inv ∧ State.reset.HoldsKey ∧ ∀ n, regRead n State.reset = 0

/-- Every step keeps the invariant: STATUS legal, BUF in canonical form below BUF_SIZE, GF_RESULT one byte, OUT_LEN
within BUF (10_state.md §2, §3; 20_memory.md §1). That BUSY is 0, that ERR means ERR_SEEN, that NK = NR = 0 without a
key and that OUT_LEN is within BUF are the model's inference (log entry 12), and the canonical form is the model's
own. -/
def Obligations.EveryStepKeepsTheInvariant : Prop := ∀ s t : State, s.Inv → step s = .next t → t.Inv

/-- Every step keeps the meaning of KEY_VALID: while it is 1, RK[0..NR] hold the expansion of a key of 4·NK bytes
(10_state.md §2, R38; 41_key_schedule.md §2, R182). -/
def Obligations.EveryStepKeepsAWholeKeyInTheSlot : Prop := ∀ s t : State, s.HoldsKey → step s = .next t → t.HoldsKey

/-- 70_reset_and_hazards.md §1 (R372): no step but the reset event clears KEY_VALID or ERR_SEEN. That the
host's actions stand in a list is the model's choice (log entry 5). -/
def Obligations.OnlyResetClearsKeyValidAndErrSeen : Prop :=
  ∀ (s t : State) (a : HostAction) (rest : List HostAction), s.pending = a :: rest → (∀ d, a ≠ .reset d) →
    step s = .next t →
      (s.status.errSeen = true → t.status.errSeen = true) ∧ (s.status.keyValid = true → t.status.keyValid = true)

/-- 70_reset_and_hazards.md §3 (R376) and 60_exceptions.md §2 (R339): from every state of the invariant, no sequence
of actions that the interface has ever stops the block, whatever commands it issues, and the invariant holds all
along. The model's choice: that the host's actions stand in a list and an idle step answers the same state (log entry
5), and the clauses of the invariant that log entry 12 names. -/
def Obligations.NoActionOfTheInterfaceStopsTheBlock : Prop :=
  ∀ (n : Nat) (s : State), s.Inv → (∀ a ∈ s.pending, a.wf s.cfg = true) →
    ∃ t, Sys2Proof.core.run n s = .next t ∧ State.Inv t

/-! ### Known answers -/

/-- 43_block_cipher.md R247, with the 192- and 256-bit vectors that 95_test_vectors.md lists (L2.4): from every state
with the key, the plaintext and room for the output in BUF, KEY_EXPAND and then ENC_BLOCK complete and the known
ciphertext stands at DST_ADDR. -/
def Obligations.KnownAnswersOfTheBlockCipher : Prop :=
  ∀ (s : State) (n k c : Nat),
    (n, k, c) ∈
      [(16, 0x000102030405060708090a0b0c0d0e0f, 0x69c4e0d86a7b0430d8cdb78070b4c55a),
       (24, 0x000102030405060708090a0b0c0d0e0f1011121314151617, 0xdda97ca4864cdfe06eaf70a0ec0d7191),
       (32, 0x000102030405060708090a0b0c0d0e0f101112131415161718191a1b1c1d1e1f, 0x8ea2b7ca516745bfeafc49904b496089)] →
    s.buf.wf → s.keyLen.toNat = n → InBuf s s.keyAddr n → keyInput s = hexBytes n k →
    s.srcLen = 16 → InBuf s s.srcAddr 16 → InBuf s s.dstAddr 16 →
    input s = hexBytes 16 0x00112233445566778899aabbccddeeff →
      ∃ t u, exec .keyExpand s = .next t ∧ exec .encBlock t = .next u ∧ u.status.err = false ∧
        u.memRead s.dstAddr.toNat 16 = hexBytes 16 c
end

