-- ==== Sys2Proof/Laws/State.lean ====
section
/-!
SUPPORT. What each update of the state does to each field, true by definition.
-/

namespace Sys2Proof.Machine

variable (s : State)

@[simp] theorem State.complete_cfg : (s.complete).cfg = s.cfg := rfl
@[simp] theorem State.complete_status : (s.complete).status = s.status.completed := rfl
@[simp] theorem State.complete_st : (s.complete).st = s.st := rfl
@[simp] theorem State.complete_rk : (s.complete).rk = s.rk := rfl
@[simp] theorem State.complete_keyAddr : (s.complete).keyAddr = s.keyAddr := rfl
@[simp] theorem State.complete_keyLen : (s.complete).keyLen = s.keyLen := rfl
@[simp] theorem State.complete_ivAddr : (s.complete).ivAddr = s.ivAddr := rfl
@[simp] theorem State.complete_ivLen : (s.complete).ivLen = s.ivLen := rfl
@[simp] theorem State.complete_srcAddr : (s.complete).srcAddr = s.srcAddr := rfl
@[simp] theorem State.complete_srcLen : (s.complete).srcLen = s.srcLen := rfl
@[simp] theorem State.complete_dstAddr : (s.complete).dstAddr = s.dstAddr := rfl
@[simp] theorem State.complete_outLen : (s.complete).outLen = s.outLen := rfl
@[simp] theorem State.complete_gfResult : (s.complete).gfResult = s.gfResult := rfl
@[simp] theorem State.complete_errCmd : (s.complete).errCmd = s.errCmd := rfl
@[simp] theorem State.complete_buf : (s.complete).buf = s.buf := rfl
@[simp] theorem State.complete_pending : (s.complete).pending = s.pending := rfl
@[simp] theorem State.complete_replies : (s.complete).replies = s.replies := rfl

@[simp] theorem State.raiseError_cfg (w : Word) (d : Bool) (c : ErrCode) : (s.raiseError w d c).cfg = s.cfg := rfl
@[simp] theorem State.raiseError_status (w : Word) (d : Bool) (c : ErrCode) : (s.raiseError w d c).status = s.status.errored c := rfl
@[simp] theorem State.raiseError_st (w : Word) (d : Bool) (c : ErrCode) : (s.raiseError w d c).st = s.st := rfl
@[simp] theorem State.raiseError_rk (w : Word) (d : Bool) (c : ErrCode) : (s.raiseError w d c).rk = s.rk := rfl
@[simp] theorem State.raiseError_keyAddr (w : Word) (d : Bool) (c : ErrCode) : (s.raiseError w d c).keyAddr = s.keyAddr := rfl
@[simp] theorem State.raiseError_keyLen (w : Word) (d : Bool) (c : ErrCode) : (s.raiseError w d c).keyLen = s.keyLen := rfl
@[simp] theorem State.raiseError_ivAddr (w : Word) (d : Bool) (c : ErrCode) : (s.raiseError w d c).ivAddr = s.ivAddr := rfl
@[simp] theorem State.raiseError_ivLen (w : Word) (d : Bool) (c : ErrCode) : (s.raiseError w d c).ivLen = s.ivLen := rfl
@[simp] theorem State.raiseError_srcAddr (w : Word) (d : Bool) (c : ErrCode) : (s.raiseError w d c).srcAddr = s.srcAddr := rfl
@[simp] theorem State.raiseError_srcLen (w : Word) (d : Bool) (c : ErrCode) : (s.raiseError w d c).srcLen = s.srcLen := rfl
@[simp] theorem State.raiseError_dstAddr (w : Word) (d : Bool) (c : ErrCode) : (s.raiseError w d c).dstAddr = s.dstAddr := rfl
@[simp] theorem State.raiseError_outLen (w : Word) (d : Bool) (c : ErrCode) : (s.raiseError w d c).outLen = if d then 0 else s.outLen := rfl
@[simp] theorem State.raiseError_gfResult (w : Word) (d : Bool) (c : ErrCode) : (s.raiseError w d c).gfResult = s.gfResult := rfl
@[simp] theorem State.raiseError_errCmd (w : Word) (d : Bool) (c : ErrCode) : (s.raiseError w d c).errCmd = w := rfl
@[simp] theorem State.raiseError_buf (w : Word) (d : Bool) (c : ErrCode) : (s.raiseError w d c).buf = s.buf := rfl
@[simp] theorem State.raiseError_pending (w : Word) (d : Bool) (c : ErrCode) : (s.raiseError w d c).pending = s.pending := rfl
@[simp] theorem State.raiseError_replies (w : Word) (d : Bool) (c : ErrCode) : (s.raiseError w d c).replies = s.replies := rfl

@[simp] theorem State.memWrite_cfg (a : Nat) (v : List Byte) : (s.memWrite a v).cfg = s.cfg := rfl
@[simp] theorem State.memWrite_status (a : Nat) (v : List Byte) : (s.memWrite a v).status = s.status := rfl
@[simp] theorem State.memWrite_st (a : Nat) (v : List Byte) : (s.memWrite a v).st = s.st := rfl
@[simp] theorem State.memWrite_rk (a : Nat) (v : List Byte) : (s.memWrite a v).rk = s.rk := rfl
@[simp] theorem State.memWrite_keyAddr (a : Nat) (v : List Byte) : (s.memWrite a v).keyAddr = s.keyAddr := rfl
@[simp] theorem State.memWrite_keyLen (a : Nat) (v : List Byte) : (s.memWrite a v).keyLen = s.keyLen := rfl
@[simp] theorem State.memWrite_ivAddr (a : Nat) (v : List Byte) : (s.memWrite a v).ivAddr = s.ivAddr := rfl
@[simp] theorem State.memWrite_ivLen (a : Nat) (v : List Byte) : (s.memWrite a v).ivLen = s.ivLen := rfl
@[simp] theorem State.memWrite_srcAddr (a : Nat) (v : List Byte) : (s.memWrite a v).srcAddr = s.srcAddr := rfl
@[simp] theorem State.memWrite_srcLen (a : Nat) (v : List Byte) : (s.memWrite a v).srcLen = s.srcLen := rfl
@[simp] theorem State.memWrite_dstAddr (a : Nat) (v : List Byte) : (s.memWrite a v).dstAddr = s.dstAddr := rfl
@[simp] theorem State.memWrite_outLen (a : Nat) (v : List Byte) : (s.memWrite a v).outLen = s.outLen := rfl
@[simp] theorem State.memWrite_gfResult (a : Nat) (v : List Byte) : (s.memWrite a v).gfResult = s.gfResult := rfl
@[simp] theorem State.memWrite_errCmd (a : Nat) (v : List Byte) : (s.memWrite a v).errCmd = s.errCmd := rfl
@[simp] theorem State.memWrite_buf (a : Nat) (v : List Byte) : (s.memWrite a v).buf = s.buf.writeBytes a v := rfl
@[simp] theorem State.memWrite_pending (a : Nat) (v : List Byte) : (s.memWrite a v).pending = s.pending := rfl
@[simp] theorem State.memWrite_replies (a : Nat) (v : List Byte) : (s.memWrite a v).replies = s.replies := rfl

@[simp] theorem State.commitOutput_cfg (out : List Byte) : (s.commitOutput out).cfg = s.cfg := rfl
@[simp] theorem State.commitOutput_status (out : List Byte) : (s.commitOutput out).status = s.status := rfl
@[simp] theorem State.commitOutput_st (out : List Byte) : (s.commitOutput out).st = s.st := rfl
@[simp] theorem State.commitOutput_rk (out : List Byte) : (s.commitOutput out).rk = s.rk := rfl
@[simp] theorem State.commitOutput_keyAddr (out : List Byte) : (s.commitOutput out).keyAddr = s.keyAddr := rfl
@[simp] theorem State.commitOutput_keyLen (out : List Byte) : (s.commitOutput out).keyLen = s.keyLen := rfl
@[simp] theorem State.commitOutput_ivAddr (out : List Byte) : (s.commitOutput out).ivAddr = s.ivAddr := rfl
@[simp] theorem State.commitOutput_ivLen (out : List Byte) : (s.commitOutput out).ivLen = s.ivLen := rfl
@[simp] theorem State.commitOutput_srcAddr (out : List Byte) : (s.commitOutput out).srcAddr = s.srcAddr := rfl
@[simp] theorem State.commitOutput_srcLen (out : List Byte) : (s.commitOutput out).srcLen = s.srcLen := rfl
@[simp] theorem State.commitOutput_dstAddr (out : List Byte) : (s.commitOutput out).dstAddr = s.dstAddr := rfl
@[simp] theorem State.commitOutput_outLen (out : List Byte) : (s.commitOutput out).outLen = BitVec.ofNat 32 out.length := rfl
@[simp] theorem State.commitOutput_gfResult (out : List Byte) : (s.commitOutput out).gfResult = s.gfResult := rfl
@[simp] theorem State.commitOutput_errCmd (out : List Byte) : (s.commitOutput out).errCmd = s.errCmd := rfl
@[simp] theorem State.commitOutput_buf (out : List Byte) : (s.commitOutput out).buf = s.buf.writeBytes s.dstAddr.toNat out := rfl
@[simp] theorem State.commitOutput_pending (out : List Byte) : (s.commitOutput out).pending = s.pending := rfl
@[simp] theorem State.commitOutput_replies (out : List Byte) : (s.commitOutput out).replies = s.replies := rfl

@[simp] theorem State.setGfResult_cfg (v : Byte) : (s.setGfResult v).cfg = s.cfg := rfl
@[simp] theorem State.setGfResult_status (v : Byte) : (s.setGfResult v).status = s.status := rfl
@[simp] theorem State.setGfResult_st (v : Byte) : (s.setGfResult v).st = s.st := rfl
@[simp] theorem State.setGfResult_rk (v : Byte) : (s.setGfResult v).rk = s.rk := rfl
@[simp] theorem State.setGfResult_keyAddr (v : Byte) : (s.setGfResult v).keyAddr = s.keyAddr := rfl
@[simp] theorem State.setGfResult_keyLen (v : Byte) : (s.setGfResult v).keyLen = s.keyLen := rfl
@[simp] theorem State.setGfResult_ivAddr (v : Byte) : (s.setGfResult v).ivAddr = s.ivAddr := rfl
@[simp] theorem State.setGfResult_ivLen (v : Byte) : (s.setGfResult v).ivLen = s.ivLen := rfl
@[simp] theorem State.setGfResult_srcAddr (v : Byte) : (s.setGfResult v).srcAddr = s.srcAddr := rfl
@[simp] theorem State.setGfResult_srcLen (v : Byte) : (s.setGfResult v).srcLen = s.srcLen := rfl
@[simp] theorem State.setGfResult_dstAddr (v : Byte) : (s.setGfResult v).dstAddr = s.dstAddr := rfl
@[simp] theorem State.setGfResult_outLen (v : Byte) : (s.setGfResult v).outLen = s.outLen := rfl
@[simp] theorem State.setGfResult_gfResult (v : Byte) : (s.setGfResult v).gfResult = v.setWidth 32 := rfl
@[simp] theorem State.setGfResult_errCmd (v : Byte) : (s.setGfResult v).errCmd = s.errCmd := rfl
@[simp] theorem State.setGfResult_buf (v : Byte) : (s.setGfResult v).buf = s.buf := rfl
@[simp] theorem State.setGfResult_pending (v : Byte) : (s.setGfResult v).pending = s.pending := rfl
@[simp] theorem State.setGfResult_replies (v : Byte) : (s.setGfResult v).replies = s.replies := rfl

@[simp] theorem State.mapSt_cfg (f : Block → Block) : (s.mapSt f).cfg = s.cfg := rfl
@[simp] theorem State.mapSt_status (f : Block → Block) : (s.mapSt f).status = s.status := rfl
@[simp] theorem State.mapSt_st (f : Block → Block) : (s.mapSt f).st = f s.st := rfl
@[simp] theorem State.mapSt_rk (f : Block → Block) : (s.mapSt f).rk = s.rk := rfl
@[simp] theorem State.mapSt_keyAddr (f : Block → Block) : (s.mapSt f).keyAddr = s.keyAddr := rfl
@[simp] theorem State.mapSt_keyLen (f : Block → Block) : (s.mapSt f).keyLen = s.keyLen := rfl
@[simp] theorem State.mapSt_ivAddr (f : Block → Block) : (s.mapSt f).ivAddr = s.ivAddr := rfl
@[simp] theorem State.mapSt_ivLen (f : Block → Block) : (s.mapSt f).ivLen = s.ivLen := rfl
@[simp] theorem State.mapSt_srcAddr (f : Block → Block) : (s.mapSt f).srcAddr = s.srcAddr := rfl
@[simp] theorem State.mapSt_srcLen (f : Block → Block) : (s.mapSt f).srcLen = s.srcLen := rfl
@[simp] theorem State.mapSt_dstAddr (f : Block → Block) : (s.mapSt f).dstAddr = s.dstAddr := rfl
@[simp] theorem State.mapSt_outLen (f : Block → Block) : (s.mapSt f).outLen = s.outLen := rfl
@[simp] theorem State.mapSt_gfResult (f : Block → Block) : (s.mapSt f).gfResult = s.gfResult := rfl
@[simp] theorem State.mapSt_errCmd (f : Block → Block) : (s.mapSt f).errCmd = s.errCmd := rfl
@[simp] theorem State.mapSt_buf (f : Block → Block) : (s.mapSt f).buf = s.buf := rfl
@[simp] theorem State.mapSt_pending (f : Block → Block) : (s.mapSt f).pending = s.pending := rfl
@[simp] theorem State.mapSt_replies (f : Block → Block) : (s.mapSt f).replies = s.replies := rfl

@[simp] theorem State.loadKey_cfg (key : List Byte) : (s.loadKey key).cfg = s.cfg := rfl
@[simp] theorem State.loadKey_status (key : List Byte) : (s.loadKey key).status = s.status.keyLoaded (key.length / 4) (roundsOf (key.length / 4)) := rfl
@[simp] theorem State.loadKey_st (key : List Byte) : (s.loadKey key).st = s.st := rfl
@[simp] theorem State.loadKey_rk (key : List Byte) : (s.loadKey key).rk = storeRoundKeys (keySchedule key) s.rk := rfl
@[simp] theorem State.loadKey_keyAddr (key : List Byte) : (s.loadKey key).keyAddr = s.keyAddr := rfl
@[simp] theorem State.loadKey_keyLen (key : List Byte) : (s.loadKey key).keyLen = s.keyLen := rfl
@[simp] theorem State.loadKey_ivAddr (key : List Byte) : (s.loadKey key).ivAddr = s.ivAddr := rfl
@[simp] theorem State.loadKey_ivLen (key : List Byte) : (s.loadKey key).ivLen = s.ivLen := rfl
@[simp] theorem State.loadKey_srcAddr (key : List Byte) : (s.loadKey key).srcAddr = s.srcAddr := rfl
@[simp] theorem State.loadKey_srcLen (key : List Byte) : (s.loadKey key).srcLen = s.srcLen := rfl
@[simp] theorem State.loadKey_dstAddr (key : List Byte) : (s.loadKey key).dstAddr = s.dstAddr := rfl
@[simp] theorem State.loadKey_outLen (key : List Byte) : (s.loadKey key).outLen = s.outLen := rfl
@[simp] theorem State.loadKey_gfResult (key : List Byte) : (s.loadKey key).gfResult = s.gfResult := rfl
@[simp] theorem State.loadKey_errCmd (key : List Byte) : (s.loadKey key).errCmd = s.errCmd := rfl
@[simp] theorem State.loadKey_buf (key : List Byte) : (s.loadKey key).buf = s.buf := rfl
@[simp] theorem State.loadKey_pending (key : List Byte) : (s.loadKey key).pending = s.pending := rfl
@[simp] theorem State.loadKey_replies (key : List Byte) : (s.loadKey key).replies = s.replies := rfl

@[simp] theorem State.reply_cfg (r : Reply) : (s.reply r).cfg = s.cfg := rfl
@[simp] theorem State.reply_status (r : Reply) : (s.reply r).status = s.status := rfl
@[simp] theorem State.reply_st (r : Reply) : (s.reply r).st = s.st := rfl
@[simp] theorem State.reply_rk (r : Reply) : (s.reply r).rk = s.rk := rfl
@[simp] theorem State.reply_keyAddr (r : Reply) : (s.reply r).keyAddr = s.keyAddr := rfl
@[simp] theorem State.reply_keyLen (r : Reply) : (s.reply r).keyLen = s.keyLen := rfl
@[simp] theorem State.reply_ivAddr (r : Reply) : (s.reply r).ivAddr = s.ivAddr := rfl
@[simp] theorem State.reply_ivLen (r : Reply) : (s.reply r).ivLen = s.ivLen := rfl
@[simp] theorem State.reply_srcAddr (r : Reply) : (s.reply r).srcAddr = s.srcAddr := rfl
@[simp] theorem State.reply_srcLen (r : Reply) : (s.reply r).srcLen = s.srcLen := rfl
@[simp] theorem State.reply_dstAddr (r : Reply) : (s.reply r).dstAddr = s.dstAddr := rfl
@[simp] theorem State.reply_outLen (r : Reply) : (s.reply r).outLen = s.outLen := rfl
@[simp] theorem State.reply_gfResult (r : Reply) : (s.reply r).gfResult = s.gfResult := rfl
@[simp] theorem State.reply_errCmd (r : Reply) : (s.reply r).errCmd = s.errCmd := rfl
@[simp] theorem State.reply_buf (r : Reply) : (s.reply r).buf = s.buf := rfl
@[simp] theorem State.reply_pending (r : Reply) : (s.reply r).pending = s.pending := rfl
@[simp] theorem State.reply_replies (r : Reply) : (s.reply r).replies = s.replies ++ [r] := rfl

@[simp] theorem State.withFetchWord_cfg (n w : Nat) : (s.withFetchWord n w).cfg = s.cfg := rfl
@[simp] theorem State.withFetchWord_status (n w : Nat) : (s.withFetchWord n w).status = { s.status with busy := false } := rfl
@[simp] theorem State.withFetchWord_st (n w : Nat) : (s.withFetchWord n w).st = s.st := rfl
@[simp] theorem State.withFetchWord_rk (n w : Nat) : (s.withFetchWord n w).rk = s.rk := rfl
@[simp] theorem State.withFetchWord_keyAddr (n w : Nat) : (s.withFetchWord n w).keyAddr = s.keyAddr := rfl
@[simp] theorem State.withFetchWord_keyLen (n w : Nat) : (s.withFetchWord n w).keyLen = s.keyLen := rfl
@[simp] theorem State.withFetchWord_ivAddr (n w : Nat) : (s.withFetchWord n w).ivAddr = s.ivAddr := rfl
@[simp] theorem State.withFetchWord_ivLen (n w : Nat) : (s.withFetchWord n w).ivLen = s.ivLen := rfl
@[simp] theorem State.withFetchWord_srcAddr (n w : Nat) : (s.withFetchWord n w).srcAddr = s.srcAddr := rfl
@[simp] theorem State.withFetchWord_srcLen (n w : Nat) : (s.withFetchWord n w).srcLen = s.srcLen := rfl
@[simp] theorem State.withFetchWord_dstAddr (n w : Nat) : (s.withFetchWord n w).dstAddr = s.dstAddr := rfl
@[simp] theorem State.withFetchWord_outLen (n w : Nat) : (s.withFetchWord n w).outLen = s.outLen := rfl
@[simp] theorem State.withFetchWord_gfResult (n w : Nat) : (s.withFetchWord n w).gfResult = s.gfResult := rfl
@[simp] theorem State.withFetchWord_errCmd (n w : Nat) : (s.withFetchWord n w).errCmd = s.errCmd := rfl
@[simp] theorem State.withFetchWord_buf (n w : Nat) : (s.withFetchWord n w).buf = s.buf := rfl
@[simp] theorem State.withFetchWord_pending (n w : Nat) : (s.withFetchWord n w).pending = .regWrite regCmd (BitVec.ofNat 32 (w % 2 ^ n)) :: s.pending := rfl
@[simp] theorem State.withFetchWord_replies (n w : Nat) : (s.withFetchWord n w).replies = s.replies := rfl

variable (q : Status)

@[simp] theorem Status.completed_busy : (q.completed).busy = false := rfl
@[simp] theorem Status.completed_err : (q.completed).err = false := rfl
@[simp] theorem Status.completed_errSeen : (q.completed).errSeen = q.errSeen := rfl
@[simp] theorem Status.completed_keyValid : (q.completed).keyValid = q.keyValid := rfl
@[simp] theorem Status.completed_errCode : (q.completed).errCode = .noError := rfl
@[simp] theorem Status.completed_nk : (q.completed).nk = q.nk := rfl
@[simp] theorem Status.completed_nr : (q.completed).nr = q.nr := rfl

@[simp] theorem Status.errored_busy (c : ErrCode) : (q.errored c).busy = false := rfl
@[simp] theorem Status.errored_err (c : ErrCode) : (q.errored c).err = true := rfl
@[simp] theorem Status.errored_errSeen (c : ErrCode) : (q.errored c).errSeen = true := rfl
@[simp] theorem Status.errored_keyValid (c : ErrCode) : (q.errored c).keyValid = q.keyValid := rfl
@[simp] theorem Status.errored_errCode (c : ErrCode) : (q.errored c).errCode = c := rfl
@[simp] theorem Status.errored_nk (c : ErrCode) : (q.errored c).nk = q.nk := rfl
@[simp] theorem Status.errored_nr (c : ErrCode) : (q.errored c).nr = q.nr := rfl

@[simp] theorem Status.keyLoaded_busy (k n : Nat) : (q.keyLoaded k n).busy = q.busy := rfl
@[simp] theorem Status.keyLoaded_err (k n : Nat) : (q.keyLoaded k n).err = q.err := rfl
@[simp] theorem Status.keyLoaded_errSeen (k n : Nat) : (q.keyLoaded k n).errSeen = q.errSeen := rfl
@[simp] theorem Status.keyLoaded_keyValid (k n : Nat) : (q.keyLoaded k n).keyValid = true := rfl
@[simp] theorem Status.keyLoaded_errCode (k n : Nat) : (q.keyLoaded k n).errCode = q.errCode := rfl
@[simp] theorem Status.keyLoaded_nk (k n : Nat) : (q.keyLoaded k n).nk = BitVec.ofNat 4 k := rfl
@[simp] theorem Status.keyLoaded_nr (k n : Nat) : (q.keyLoaded k n).nr = BitVec.ofNat 4 n := rfl

end Sys2Proof.Machine
end

