-- ==== Sys2Proof/Laws/Memory.lean ====
section
/-!
SUPPORT. BUF: reading after writing, the bytes a write leaves alone, and that every memory operation keeps the
canonical form and the bound on the listed addresses.
-/

namespace Sys2Proof.Machine

theorem readCells_eq_unlisted_of_lt {cs : List Host.Cell} {x : Nat} (h : ∀ c ∈ cs, x < c.1) :
    readCells cs x = Memory.unlisted := by
  induction cs with
  | nil => rfl
  | cons c cs ih =>
    obtain ⟨a, v⟩ := c
    have ha : x < a := h (a, v) (by simp)
    simp only [readCells, if_neg (Nat.ne_of_gt ha)]
    exact ih fun c hc => h c (by simp [hc])

theorem mem_writeCells {cs : List Host.Cell} {x : Nat} {v : Byte} {c : Host.Cell} (h : c ∈ writeCells cs x v) :
    c ∈ cs ∨ (c = (x, v) ∧ v ≠ Memory.unlisted) := by
  induction cs with
  | nil =>
    unfold writeCells at h
    split at h
    · simp at h
    · next hv => exact .inr ⟨by simpa using h, hv⟩
  | cons b cs ih =>
    obtain ⟨a, w⟩ := b
    unfold writeCells at h
    split at h
    · split at h
      · exact .inl h
      · next hv =>
        rcases List.mem_cons.mp h with rfl | h
        · exact .inr ⟨rfl, hv⟩
        · exact .inl h
    · split at h
      · split at h
        · exact .inl (by simp [h])
        · next hv =>
          rcases List.mem_cons.mp h with rfl | h
          · exact .inr ⟨rfl, hv⟩
          · exact .inl (by simp [h])
      · rcases List.mem_cons.mp h with rfl | h
        · exact .inl (by simp)
        · rcases ih h with h | h
          · exact .inl (by simp [h])
          · exact .inr h

/-- A write keeps the canonical form. -/
theorem Memory.wf_write {m : Memory} (h : m.wf) (x : Nat) (v : Byte) : (m.write x v).wf := by
  obtain ⟨cs⟩ := m
  obtain ⟨hs, hv⟩ := h
  refine ⟨?_, fun c hc => ?_⟩
  · show (writeCells cs x v).Pairwise _
    clear hv
    change cs.Pairwise _ at hs
    induction cs with
    | nil => unfold writeCells; split <;> simp
    | cons b cs ih =>
      obtain ⟨a, w⟩ := b
      have ht := List.pairwise_cons.mp hs
      unfold writeCells
      split
      · next hxa =>
        split
        · exact hs
        · refine List.pairwise_cons.mpr ⟨fun c hc => ?_, hs⟩
          rcases List.mem_cons.mp hc with rfl | hc
          · exact hxa
          · exact Nat.lt_trans hxa (ht.1 c hc)
      · next hxa =>
        split
        · next he =>
          subst he
          split
          · exact ht.2
          · exact List.pairwise_cons.mpr ⟨ht.1, ht.2⟩
        · next hne =>
          refine List.pairwise_cons.mpr ⟨fun c hc => ?_, ih ht.2⟩
          rcases mem_writeCells hc with hc | ⟨rfl, -⟩
          · exact ht.1 c hc
          · show a < x
            omega
  · rcases mem_writeCells hc with hc | ⟨rfl, hne⟩
    · exact hv c hc
    · exact hne

/-- A write below `n` keeps every listed address below `n`. -/
theorem Memory.within_write {m : Memory} {n x : Nat} (h : m.within n) (hx : x < n) (v : Byte) :
    (m.write x v).within n := by
  intro c hc
  rcases mem_writeCells hc with hc | ⟨rfl, -⟩
  · exact h c hc
  · exact hx

/-- A write leaves every other byte alone. -/
theorem Memory.read_write_ne (m : Memory) {x y : Nat} (h : y ≠ x) (v : Byte) : (m.write x v).read y = m.read y := by
  obtain ⟨cs⟩ := m
  show readCells (writeCells cs x v) y = readCells cs y
  induction cs with
  | nil =>
    unfold writeCells
    split
    · rfl
    · simp [readCells, Ne.symm h]
  | cons b cs ih =>
    obtain ⟨a, w⟩ := b
    unfold writeCells
    split
    · split
      · rfl
      · simp [readCells, Ne.symm h]
    · split
      · next he =>
        subst he
        split <;> simp [readCells, Ne.symm h]
      · simp only [readCells, ih]

/-- A read after a write to the same byte gives the byte written. -/
theorem Memory.read_write_same {m : Memory} (h : m.wf) (x : Nat) (v : Byte) : (m.write x v).read x = v := by
  obtain ⟨cs⟩ := m
  obtain ⟨hs, -⟩ := h
  change cs.Pairwise _ at hs
  show readCells (writeCells cs x v) x = v
  induction cs with
  | nil =>
    unfold writeCells
    split
    · next hv => exact hv.symm
    · simp [readCells]
  | cons b cs ih =>
    obtain ⟨a, w⟩ := b
    have ht := List.pairwise_cons.mp hs
    unfold writeCells
    split
    · next hxa =>
      split
      · next hv =>
        rw [hv]
        refine readCells_eq_unlisted_of_lt fun c hc => ?_
        rcases List.mem_cons.mp hc with rfl | hc
        · exact hxa
        · exact Nat.lt_trans hxa (ht.1 c hc)
      · simp [readCells]
    · split
      · next he =>
        subst he
        split
        · next hv =>
          rw [hv]
          exact readCells_eq_unlisted_of_lt fun c hc => ht.1 c hc
        · simp [readCells]
      · next hne =>
        simp only [readCells, if_neg (Ne.symm hne)]
        exact ih ht.2

/-- Writing a byte sequence keeps the canonical form. -/
theorem Memory.wf_writeBytes {m : Memory} (h : m.wf) (a : Nat) (vs : List Byte) : (m.writeBytes a vs).wf := by
  induction vs generalizing m a with
  | nil => exact h
  | cons v vs ih => exact ih (Memory.wf_write h a v) (a + 1)

/-- Writing a byte sequence below `n` keeps every listed address below `n`. -/
theorem Memory.within_writeBytes {m : Memory} {n a : Nat} (h : m.within n) {vs : List Byte}
    (ha : a + vs.length ≤ n) : (m.writeBytes a vs).within n := by
  induction vs generalizing m a with
  | nil => exact h
  | cons v vs ih =>
    simp only [List.length_cons] at ha
    exact ih (Memory.within_write h (by omega) v) (by omega)

/-- Writing a byte sequence leaves every byte outside its region alone. -/
theorem Memory.read_writeBytes_outside (m : Memory) {a x : Nat} {vs : List Byte}
    (h : x < a ∨ a + vs.length ≤ x) : (m.writeBytes a vs).read x = m.read x := by
  induction vs generalizing m a with
  | nil => rfl
  | cons v vs ih =>
    simp only [List.length_cons] at h
    have hx : x ≠ a := by omega
    rw [Memory.writeBytes, ih (m.write a v) (by omega), Memory.read_write_ne m hx]

/-- Each byte of a written sequence reads back. -/
theorem Memory.read_writeBytes_inside {m : Memory} (h : m.wf) (a : Nat) {vs : List Byte} {i : Nat}
    (hi : i < vs.length) : (m.writeBytes a vs).read (a + i) = vs.getD i 0 := by
  induction vs generalizing m a i with
  | nil => simp at hi
  | cons v vs ih =>
    cases i with
    | zero =>
      rw [Memory.writeBytes, Memory.read_writeBytes_outside _ (by omega), Nat.add_zero,
        Memory.read_write_same h]
      rfl
    | succ i =>
      have := ih (Memory.wf_write h a v) (a + 1) (i := i) (by simpa using hi)
      rw [Memory.writeBytes, show a + (i + 1) = a + 1 + i by omega, this]
      rfl

@[simp] theorem State.memRead_length (s : State) (a n : Nat) : (s.memRead a n).length = n := by simp [State.memRead]

/-- What MemRead gives depends on BUF alone. -/
theorem State.memRead_congr {s t : State} (h : t.buf = s.buf) (a n : Nat) : t.memRead a n = s.memRead a n := by
  simp [State.memRead, h]

/-- A written byte sequence reads back whole (20_memory.md R72). -/
theorem State.memRead_memWrite {s : State} (h : s.buf.wf) (a : Nat) (vs : List Byte) :
    (s.memWrite a vs).memRead a vs.length = vs := by
  refine List.ext_getElem (by simp) fun i h1 h2 => ?_
  have := Memory.read_writeBytes_inside h a h2
  simp only [State.memRead, State.memWrite_buf, List.getElem_map, List.getElem_range, this]
  simp [h2]

end Sys2Proof.Machine
end

