-- ==== Sys2Proof/Laws/Ops.lean ====
section
/-!
SUPPORT. What the shared operations do, said once: the first error of a list of checks, how a command ends, and the
conversions between bytes and blocks.
-/

namespace Sys2Proof

@[simp] theorem Block.toBytes_length (b : Block) : b.toBytes.length = 16 := rfl

theorem Column.xor_comm (x y : Column) : x.xor y = y.xor x := by
  simp [Column.xor, BitVec.xor_comm]

theorem Column.xor_assoc (x y z : Column) : (x.xor y).xor z = x.xor (y.xor z) := by
  simp [Column.xor, BitVec.xor_assoc]

@[simp] theorem Column.xor_self_right (x y : Column) : (x.xor y).xor y = x := by
  simp [Column.xor]

theorem Block.xor_comm (x y : Block) : x.xor y = y.xor x := by
  simp [Block.xor, Column.xor_comm]

theorem Block.xor_assoc (x y z : Block) : (x.xor y).xor z = x.xor (y.xor z) := by
  simp [Block.xor, Column.xor_assoc]

@[simp] theorem Block.xor_self_right (x y : Block) : (x.xor y).xor y = x := by
  simp [Block.xor]

/-- The word of the fields of a word (30_encoding.md R100). -/
@[simp] theorem Fields.toWord_ofWord (v : Word) : (Fields.ofWord v).toWord = v := by
  refine BitVec.eq_of_getLsbD_eq fun i hi => ?_
  unfold Fields.toWord Fields.ofWord
  simp only [BitVec.getLsbD_append, BitVec.getLsbD_extractLsb']
  interval_cases i <;> simp

/-- The fields of the word of some fields (30_encoding.md R100). -/
@[simp] theorem Fields.ofWord_toWord (f : Fields) : Fields.ofWord f.toWord = f := by
  obtain ⟨a, b, rk, resv, mode, opc⟩ := f
  simp only [Fields.ofWord, Fields.toWord, Fields.mk.injEq]
  refine ⟨?_, ?_, ?_, ?_, ?_, ?_⟩ <;> refine BitVec.eq_of_getLsbD_eq fun i hi => ?_ <;>
    simp only [BitVec.getLsbD_extractLsb', BitVec.getLsbD_append] <;> interval_cases i <;> simp

/-- What passes step 2 of 30_encoding.md R101. -/
theorem Fields.checked_eq_command {f : Fields} {u : FieldUse} {r : Decoded} {i : Instr}
    (h : f.checked u r = .command i) : f.reservedClear u = true ∧ r = .command i := by
  unfold Fields.checked at h
  split at h
  · next hc => exact ⟨hc, h⟩
  · cases h

end Sys2Proof

namespace Sys2Proof.Machine

/-- The conversion of a block to bytes and back (10_state.md R36). -/
@[simp] theorem blockOf_toBytes (b : Block) : blockOf b.toBytes = b := rfl

/-- The conversion of a 16-byte sequence to a block and back is the identity on bytes (10_state.md R36). -/
theorem toBytes_blockOf {l : List Byte} (h : l.length = 16) : (blockOf l).toBytes = l := by
  match l, h with
  | [_, _, _, _, _, _, _, _, _, _, _, _, _, _, _, _], _ => rfl

@[simp] theorem firstError_nil : firstError [] = none := rfl

@[simp] theorem firstError_cons (b : Bool) (c : ErrCode) (rest : List (Bool × ErrCode)) :
    firstError ((b, c) :: rest) = if b then some c else firstError rest := rfl

/-- No error is raised exactly when no condition holds. -/
theorem firstError_eq_none {l : List (Bool × ErrCode)} : firstError l = none ↔ ∀ p ∈ l, p.1 = false := by
  induction l with
  | nil => simp
  | cons p l ih =>
    obtain ⟨b, c⟩ := p
    cases b <;> simp [ih]

/-- A reported error is one of the listed ones, and its condition holds. -/
theorem firstError_mem {l : List (Bool × ErrCode)} {c : ErrCode} (h : firstError l = some c) : (true, c) ∈ l := by
  induction l with
  | nil => simp at h
  | cons p l ih =>
    obtain ⟨b, d⟩ := p
    cases b
    · exact List.mem_cons_of_mem _ (ih (by simpa using h))
    · have : d = c := by simpa using h
      simp [this]

/-- A command ends in exactly one of the two ways of 60_exceptions.md R334. -/
theorem runCommand_cases {i : Instr} {err : Option ErrCode} {f : State → State} {s t : State}
    (h : runCommand i err f s = .next t) :
    (err = none ∧ t = (f s).complete) ∨ (∃ c, err = some c ∧ t = s.raiseError (encode i) i.isData c) := by
  cases err with
  | none => exact .inl ⟨rfl, by simpa [runCommand] using h.symm⟩
  | some c => exact .inr ⟨c, rfl, by simpa [runCommand] using h.symm⟩

/-- A command always answers a next state (70_reset_and_hazards.md R376). -/
theorem runCommand_next (i : Instr) (err : Option ErrCode) (f : State → State) (s : State) :
    ∃ t, runCommand i err f s = .next t := by
  cases err <;> exact ⟨_, rfl⟩

/-- A data command ends in one of three ways: it commits its output, it raises the error of its checks, or its unpad
fails. -/
theorem runDataCommand_cases {i : Instr} {err : Option ErrCode} {out : Option (List Byte)} {s t : State}
    (h : runDataCommand i err out s = .next t) :
    (∃ bytes, err = none ∧ out = some bytes ∧ t = (s.commitOutput bytes).complete) ∨
    (∃ c, err = some c ∧ t = s.raiseError (encode i) i.isData c) ∨
    (err = none ∧ out = none ∧ t = s.raiseError (encode i) i.isData .paddingError) := by
  cases err with
  | some c => exact .inr (.inl ⟨c, rfl, by simpa [runDataCommand, runCommand] using h.symm⟩)
  | none =>
    cases out with
    | none => exact .inr (.inr ⟨rfl, rfl, by simpa [runDataCommand, runCommand] using h.symm⟩)
    | some bytes => exact .inl ⟨bytes, rfl, rfl, by simpa [runDataCommand, runCommand] using h.symm⟩

/-- A data command always answers a next state (70_reset_and_hazards.md R376). -/
theorem runDataCommand_next (i : Instr) (err : Option ErrCode) (out : Option (List Byte)) (s : State) :
    ∃ t, runDataCommand i err out s = .next t := by
  cases err <;> cases out <;> exact ⟨_, rfl⟩

/-- Each listed entry is replaced and the others stay (41_key_schedule.md R180). -/
theorem roundKey_storeRoundKeys (keys : List Block) (rk : RoundKeys) {j : Nat} (h : j < 15) :
    roundKey (storeRoundKeys keys rk) j = keys.getD j (roundKey rk j) := by
  simp [roundKey, storeRoundKeys, h]

/-- Splitting gives as many blocks as asked for (45_modes.md R280). -/
@[simp] theorem splitBlocks_length (n : Nat) (d : List Byte) : (splitBlocks n d).length = n := by
  induction n generalizing d with
  | zero => rfl
  | succ n ih => simp [splitBlocks, ih]

/-- Block `i` of a split is `d[16i .. min(16i + 16, len(d)))` (45_modes.md R280). -/
theorem splitBlocks_getD {n i : Nat} (h : i < n) (d : List Byte) :
    (splitBlocks n d).getD i [] = (d.drop (16 * i)).take 16 := by
  induction n generalizing d i with
  | zero => omega
  | succ n ih =>
    cases i with
    | zero => simp [splitBlocks]
    | succ i =>
      rw [splitBlocks, List.getD_cons_succ, ih (by omega), List.drop_drop]
      congr 2
      omega

/-- The blocks of a split, put together again, are the data they cover (45_modes.md R280). -/
theorem splitBlocks_flatten {n : Nat} {d : List Byte} (h : d.length ≤ 16 * n) : (splitBlocks n d).flatten = d := by
  induction n generalizing d with
  | zero =>
    have : d = [] := List.length_eq_zero_iff.mp (by omega)
    simp [splitBlocks, this]
  | succ n ih =>
    rw [splitBlocks, List.flatten_cons, ih (by simp; omega), List.take_append_drop]

end Sys2Proof.Machine
end

