-- ==== Sys2Proof/Laws/Exec.lean ====
section
/-!
SUPPORT. exec on each constructor, and the operand checks as statements about numbers, so that no proof unfolds the
dispatch or the region table.
-/

namespace Sys2Proof.Machine

@[simp] theorem exec_nop (s : State) : exec .nop s = execNop s := rfl
@[simp] theorem exec_gfAdd (a b : Byte) (s : State) : exec (.gfAdd a b) s = execGfAdd a b s := rfl
@[simp] theorem exec_gfDouble (a : Byte) (s : State) : exec (.gfDouble a) s = execGfDouble a s := rfl
@[simp] theorem exec_gfMul (a b : Byte) (s : State) : exec (.gfMul a b) s = execGfMul a b s := rfl
@[simp] theorem exec_gfSbox (a : Byte) (s : State) : exec (.gfSbox a) s = execGfSbox a s := rfl
@[simp] theorem exec_gfInvSbox (a : Byte) (s : State) : exec (.gfInvSbox a) s = execGfInvSbox a s := rfl
@[simp] theorem exec_gfRcon (r : Byte) (s : State) : exec (.gfRcon r) s = execGfRcon r s := rfl
@[simp] theorem exec_keyExpand (s : State) : exec .keyExpand s = execKeyExpand s := rfl
@[simp] theorem exec_rkStore (r : BitVec 4) (s : State) : exec (.rkStore r) s = execRkStore r s := rfl
@[simp] theorem exec_stateLoad (s : State) : exec .stateLoad s = execStateLoad s := rfl
@[simp] theorem exec_stateStore (s : State) : exec .stateStore s = execStateStore s := rfl
@[simp] theorem exec_subBytes (s : State) : exec .subBytes s = execSubBytes s := rfl
@[simp] theorem exec_invSubBytes (s : State) : exec .invSubBytes s = execInvSubBytes s := rfl
@[simp] theorem exec_shiftRows (s : State) : exec .shiftRows s = execShiftRows s := rfl
@[simp] theorem exec_invShiftRows (s : State) : exec .invShiftRows s = execInvShiftRows s := rfl
@[simp] theorem exec_mixColumns (s : State) : exec .mixColumns s = execMixColumns s := rfl
@[simp] theorem exec_invMixColumns (s : State) : exec .invMixColumns s = execInvMixColumns s := rfl
@[simp] theorem exec_addRoundKey (r : BitVec 4) (s : State) : exec (.addRoundKey r) s = execAddRoundKey r s := rfl
@[simp] theorem exec_encBlock (s : State) : exec .encBlock s = execEncBlock s := rfl
@[simp] theorem exec_decBlock (s : State) : exec .decBlock s = execDecBlock s := rfl
@[simp] theorem exec_pad (s : State) : exec .pad s = execPad s := rfl
@[simp] theorem exec_unpad (s : State) : exec .unpad s = execUnpad s := rfl
@[simp] theorem exec_encCbc (s : State) : exec .encCbc s = execEncCbc s := rfl
@[simp] theorem exec_decCbc (s : State) : exec .decCbc s = execDecCbc s := rfl
@[simp] theorem exec_encPcbc (s : State) : exec .encPcbc s = execEncPcbc s := rfl
@[simp] theorem exec_decPcbc (s : State) : exec .decPcbc s = execDecPcbc s := rfl
@[simp] theorem exec_encCfb (s : State) : exec .encCfb s = execEncCfb s := rfl
@[simp] theorem exec_decCfb (s : State) : exec .decCfb s = execDecCfb s := rfl
@[simp] theorem exec_encOfb (s : State) : exec .encOfb s = execEncOfb s := rfl
@[simp] theorem exec_decOfb (s : State) : exec .decOfb s = execDecOfb s := rfl
@[simp] theorem exec_encCtr (s : State) : exec .encCtr s = execEncCtr s := rfl
@[simp] theorem exec_decCtr (s : State) : exec .decCtr s = execDecCtr s := rfl
@[simp] theorem exec_ctrInc (s : State) : exec .ctrInc s = execCtrInc s := rfl

/-- A command's regions are all in BUF (20_memory.md R74). -/
theorem outOfRange_eq_false {i : Instr} {s : State} :
    outOfRange i s = false ↔ ∀ r ∈ checkedRegions i s, r.addr + r.n ≤ s.cfg.bufSize := by
  simp [outOfRange, Region.inRange]

/-- Some region of a command is not in BUF (20_memory.md R74). -/
theorem outOfRange_eq_true {i : Instr} {s : State} :
    outOfRange i s = true ↔ ∃ r ∈ checkedRegions i s, s.cfg.bufSize < r.addr + r.n := by
  simp [outOfRange, Region.inRange]

@[simp] theorem noKey_eq_false {s : State} : noKey s = false ↔ s.status.keyValid = true := by simp [noKey]

@[simp] theorem noKey_eq_true {s : State} : noKey s = true ↔ s.status.keyValid = false := by simp [noKey]

@[simp] theorem aboveNr_eq_false {r : BitVec 4} {s : State} :
    aboveNr r s = false ↔ r.toNat ≤ s.status.nr.toNat := by
  simp [aboveNr, BitVec.le_def]

@[simp] theorem aboveNr_eq_true {r : BitVec 4} {s : State} :
    aboveNr r s = true ↔ s.status.nr.toNat < r.toNat := by
  simp [aboveNr, BitVec.lt_def]

@[simp] theorem badRconIndex_eq_false {i : Byte} : badRconIndex i = false ↔ 1 ≤ i.toNat ∧ i.toNat ≤ 10 := by
  simp only [badRconIndex, Bool.or_eq_false_iff, decide_eq_false_iff_not]
  omega

@[simp] theorem badKeyLength_eq_false {s : State} :
    badKeyLength s = false ↔ s.keyLen.toNat = 16 ∨ s.keyLen.toNat = 24 ∨ s.keyLen.toNat = 32 := by
  simp [badKeyLength, BitVec.toNat_eq]
  omega

@[simp] theorem badBlockLength_eq_false {s : State} : badBlockLength s = false ↔ s.srcLen.toNat = 16 := by
  simp [badBlockLength, BitVec.toNat_eq]

@[simp] theorem badIvLength_eq_false {s : State} : badIvLength s = false ↔ s.ivLen.toNat = 16 := by
  simp [badIvLength, BitVec.toNat_eq]

@[simp] theorem badCiphertextLength_eq_false {s : State} :
    badCiphertextLength s = false ↔ s.srcLen.toNat ≠ 0 ∧ s.srcLen.toNat % 16 = 0 := by
  simp only [badCiphertextLength, Bool.or_eq_false_iff, Bool.not_eq_false', decide_eq_false_iff_not,
    decide_eq_true_eq]
  rfl

@[simp] theorem badRconIndex_eq_true {i : Byte} : badRconIndex i = true ↔ i.toNat = 0 ∨ 10 < i.toNat := by
  simp [badRconIndex]

@[simp] theorem badKeyLength_eq_true {s : State} :
    badKeyLength s = true ↔ s.keyLen.toNat ≠ 16 ∧ s.keyLen.toNat ≠ 24 ∧ s.keyLen.toNat ≠ 32 := by
  rw [← Bool.not_eq_false, badKeyLength_eq_false]
  omega

@[simp] theorem badBlockLength_eq_true {s : State} : badBlockLength s = true ↔ s.srcLen.toNat ≠ 16 := by
  rw [← Bool.not_eq_false, badBlockLength_eq_false]

@[simp] theorem badIvLength_eq_true {s : State} : badIvLength s = true ↔ s.ivLen.toNat ≠ 16 := by
  rw [← Bool.not_eq_false, badIvLength_eq_false]

@[simp] theorem badCiphertextLength_eq_true {s : State} :
    badCiphertextLength s = true ↔ s.srcLen.toNat = 0 ∨ s.srcLen.toNat % 16 ≠ 0 := by
  rw [← Bool.not_eq_false, badCiphertextLength_eq_false]
  omega

/-- The pad length is in 1..16 and completes a block (44_padding.md R260). -/
theorem padLen_spec (l : Nat) : 1 ≤ padLen l ∧ padLen l ≤ 16 ∧ (l + padLen l) % 16 = 0 := by
  unfold padLen
  omega

@[simp] theorem padBytes_length (k : Nat) : (padBytes k).length = k := by simp [padBytes]

/-- pad's output is a non-zero multiple of 16 bytes (44_padding.md R260). -/
theorem padData_length (d : List Byte) : (padData d).length = d.length + padLen d.length := by simp [padData]

@[simp] theorem blockBytes_length (bs : List Block) : (blockBytes bs).length = 16 * bs.length := by
  induction bs with
  | nil => rfl
  | cons b bs ih =>
    rw [blockBytes, List.map_cons, List.flatten_cons, List.length_append, ← blockBytes, ih]
    simp
    omega

@[simp] theorem fullBlocks_length (d : List Byte) : (fullBlocks d).length = d.length / 16 := by simp [fullBlocks]

@[simp] theorem cbcEncrypt_length (e : Block → Block) (prev : Block) (bs : List Block) :
    (cbcEncrypt e prev bs).length = bs.length := by
  induction bs generalizing prev with
  | nil => rfl
  | cons b bs ih => simp [cbcEncrypt, ih]

@[simp] theorem cbcDecrypt_length (d : Block → Block) (prev : Block) (bs : List Block) :
    (cbcDecrypt d prev bs).length = bs.length := by
  induction bs generalizing prev with
  | nil => rfl
  | cons b bs ih => simp [cbcDecrypt, ih]

@[simp] theorem pcbcEncrypt_length (e : Block → Block) (prevC prevP : Block) (bs : List Block) :
    (pcbcEncrypt e prevC prevP bs).length = bs.length := by
  induction bs generalizing prevC prevP with
  | nil => rfl
  | cons b bs ih => simp [pcbcEncrypt, ih]

@[simp] theorem pcbcDecrypt_length (d : Block → Block) (prevC prevP : Block) (bs : List Block) :
    (pcbcDecrypt d prevC prevP bs).length = bs.length := by
  induction bs generalizing prevC prevP with
  | nil => rfl
  | cons b bs ih => simp [pcbcDecrypt, ih]

/-- A block of at most 16 bytes stays as long when it is XORed with a keystream block (45_modes.md R283). -/
theorem xorPrefix_length {x : List Byte} (h : x.length ≤ 16) (k : Block) : (xorPrefix x k).length = x.length := by
  simp [xorPrefix, xorBytes, h]

/-- Every block of a split has at most 16 bytes (45_modes.md R280). -/
theorem splitBlocks_block_length {n : Nat} {d x : List Byte} (h : x ∈ splitBlocks n d) : x.length ≤ 16 := by
  induction n generalizing d with
  | zero => simp [splitBlocks] at h
  | succ n ih =>
    rcases List.mem_cons.mp h with rfl | h
    · simp [List.length_take]
    · exact ih h

/-- A loop over round numbers gives the same result under two stores whose rounds agree on them. -/
theorem foldl_rounds_congr {f g : Block → Nat → Block} {l : List Nat} (h : ∀ i ∈ l, ∀ w, f w i = g w i) (w : Block) :
    l.foldl f w = l.foldl g w := by
  induction l generalizing w with
  | nil => rfl
  | cons i l ih => rw [List.foldl_cons, List.foldl_cons, h i (by simp), ih fun j hj => h j (by simp [hj])]

/-- E reads RK[0] to RK[nr] only (43_block_cipher.md R240). -/
theorem encryptBlock_congr {rk rk' : RoundKeys} {nr : Nat} (h : ∀ j, j ≤ nr → roundKey rk j = roundKey rk' j)
    (b : Block) : encryptBlock rk nr b = encryptBlock rk' nr b := by
  simp only [encryptBlock, h 0 (Nat.zero_le _), h nr le_rfl]
  rw [foldl_rounds_congr fun i hi w => ?_]
  rw [encRound, encRound, h i (by rw [List.mem_range'_1] at hi; omega)]

/-- D reads RK[0] to RK[nr] only (43_block_cipher.md R240). -/
theorem decryptBlock_congr {rk rk' : RoundKeys} {nr : Nat} (h : ∀ j, j ≤ nr → roundKey rk j = roundKey rk' j)
    (b : Block) : decryptBlock rk nr b = decryptBlock rk' nr b := by
  simp only [decryptBlock, h 0 (Nat.zero_le _), h nr le_rfl]
  rw [foldl_rounds_congr fun i hi w => ?_]
  rw [decRound, decRound, h i (by rw [List.mem_reverse, List.mem_range'_1] at hi; omega)]

end Sys2Proof.Machine
end

