-- ==== Sys2Proof/Laws/Commit.lean ====
section
/-!
SUPPORT. All that a command can do, said once: it raises an error, or it makes one of six kinds of writes and completes.
A statement about every command follows from `exec_cases` without taking the meanings apart.
-/

namespace Sys2Proof.Machine

open Sys2Proof.Claim

/-- What a command that completes has written when its STATUS update comes (00_scope.md R17): `Commit s i u` says that
`u` is `s` after the writes of `i`. -/
inductive Commit (s : State) : Instr → State → Prop where
  | nop : Commit s .nop s
  | gf (i : Instr) (v : Byte) : writesGfResult i = true → Commit s i (s.setGfResult v)
  | key (key : List Byte) : key.length = 16 ∨ key.length = 24 ∨ key.length = 32 → Commit s .keyExpand (s.loadKey key)
  | st (i : Instr) (f : Block → Block) : writesState i = true → Commit s i (s.mapSt f)
  | store (i : Instr) (b : Block) : storesSixteen i = true → s.dstAddr.toNat + 16 ≤ s.cfg.bufSize →
      Commit s i (s.memWrite s.dstAddr.toNat b.toBytes)
  | output (i : Instr) (out : List Byte) : i.isData = true → s.dstAddr.toNat + out.length ≤ s.cfg.bufSize →
      Commit s i (s.commitOutput out)

/-- A stream mode's output is as long as its input, if its loop keeps the length of each block (45_modes.md R283). -/
theorem streamOutput_length (loop : List (List Byte) → List (List Byte))
    (h : ∀ n d, (loop (splitBlocks n d)).map List.length = (splitBlocks n d).map List.length) (d : List Byte) :
    (streamOutput loop d).length = d.length := by
  have : (streamBlocks d).flatten = d := splitBlocks_flatten (by omega)
  conv_rhs => rw [← this]
  simp only [streamOutput, List.length_flatten]
  unfold streamBlocks; rw [h]

/-- CFB encryption keeps the length of each block. -/
theorem cfbEncrypt_lengths (e : Block → Block) (b : Block) (n : Nat) (d : List Byte) :
    (cfbEncrypt e b (splitBlocks n d)).map List.length = (splitBlocks n d).map List.length := by
  induction n generalizing b d with
  | zero => rfl
  | succ n ih => simp [splitBlocks, cfbEncrypt, ih, xorPrefix_length]

/-- CFB decryption keeps the length of each block. -/
theorem cfbDecrypt_lengths (e : Block → Block) (b : Block) (n : Nat) (d : List Byte) :
    (cfbDecrypt e b (splitBlocks n d)).map List.length = (splitBlocks n d).map List.length := by
  induction n generalizing b d with
  | zero => rfl
  | succ n ih => simp [splitBlocks, cfbDecrypt, ih, xorPrefix_length]

/-- OFB keeps the length of each block. -/
theorem ofbBlocks_lengths (e : Block → Block) (b : Block) (n : Nat) (d : List Byte) :
    (ofbBlocks e b (splitBlocks n d)).map List.length = (splitBlocks n d).map List.length := by
  induction n generalizing b d with
  | zero => rfl
  | succ n ih => simp [splitBlocks, ofbBlocks, ih, xorPrefix_length]

/-- CTR keeps the length of each block. -/
theorem ctrBlocks_lengths (e : Block → Block) (b : Block) (n : Nat) (d : List Byte) :
    (ctrBlocks e b (splitBlocks n d)).map List.length = (splitBlocks n d).map List.length := by
  induction n generalizing b d with
  | zero => rfl
  | succ n ih => simp [splitBlocks, ctrBlocks, ih, xorPrefix_length]

/-- A padded encryption's output is as long as the padded input (45_modes.md R285, R287). -/
theorem paddedOutput_length (loop : List Block → List Block) (h : ∀ l, (loop l).length = l.length) (d : List Byte) :
    (paddedOutput loop d).length = d.length + padLen d.length := by
  have := padLen_spec d.length
  simp [paddedOutput, h, padData_length]; omega

/-- unpad never lengthens (44_padding.md R261). -/
theorem unpadData_length_le {d y : List Byte} (h : unpadData d = some y) : y.length ≤ d.length := by
  unfold unpadData at h
  dsimp only at h
  split at h <;> try cases h
  split at h <;> try cases h
  split at h <;> try cases h
  split at h <;> cases h
  simp

/-- A padded decryption's output is no longer than its input (20_memory.md R75). -/
theorem unpaddedOutput_length (loop : List Block → List Block) (h : ∀ l, (loop l).length = l.length)
    {d y : List Byte} (hh : unpaddedOutput loop d = some y) : y.length ≤ d.length := by
  have := unpadData_length_le hh
  simp [h] at this; omega

/-- The input of a data command has SRC_LEN bytes (45_modes.md R281). -/
theorem State.srcData_length (s : State) : s.srcData.length = s.srcLen.toNat := by
  simp [State.srcData, State.readRegion, State.srcRegion, State.len]

/-- The checks of a command raise only codes that they list. -/
theorem firstError_isError {l : List (Bool × ErrCode)} {c : ErrCode} (h : firstError l = some c)
    (hl : ∀ p ∈ l, p.2 ≠ .noError) : c ≠ .noError := hl _ (firstError_mem h)

/-- All that a command can do: raise one error, or make its writes and complete (60_exceptions.md R334). -/
theorem exec_cases {i : Instr} {s t : State} (h : exec i s = .next t) :
    (∃ c, c ≠ .noError ∧ t = s.raiseError (encode i) i.isData c) ∨ ∃ u, Commit s i u ∧ t = u.complete := by
  cases i
  case nop => exact .inr ⟨s, .nop, by simpa [execNop, runCommand] using h.symm⟩
  case gfAdd | gfDouble | gfMul | gfSbox | gfInvSbox =>
    exact .inr ⟨_, .gf _ _ rfl, by
      simp [execGfAdd, execGfDouble, execGfMul, execGfSbox, execGfInvSbox, runCommand] at h; exact h.symm⟩
  case gfRcon =>
    rcases runCommand_cases h with ⟨-, h⟩ | ⟨c, hc, h⟩
    · exact .inr ⟨_, .gf _ _ rfl, h⟩
    · exact .inl ⟨c, firstError_isError hc (by simp), h⟩
  case keyExpand =>
    rcases runCommand_cases h with ⟨he, h⟩ | ⟨c, hc, h⟩
    · refine .inr ⟨_, .key _ ?_, h⟩
      simpa [firstError_eq_none, State.readRegion, State.keyRegion] using
        (firstError_eq_none.mp he) (badKeyLength s, .configKeyLength) (by simp)
    · exact .inl ⟨c, firstError_isError hc (by simp), h⟩
  case rkStore =>
    simp only [exec_rkStore, execRkStore] at h
    rcases runCommand_cases h with ⟨he, h⟩ | ⟨c, hc, h⟩
    · refine .inr ⟨_, .store _ _ rfl ?_, h⟩
      have := (firstError_eq_none.mp he) (_, .addressRange) (by simp; rfl)
      simpa [outOfRange_eq_false, checkedRegions, State.dstRegion] using this
    · exact .inl ⟨c, firstError_isError hc (by simp), h⟩
  case stateStore =>
    simp only [exec_stateStore, execStateStore] at h
    rcases runCommand_cases h with ⟨he, h⟩ | ⟨c, hc, h⟩
    · refine .inr ⟨_, .store _ _ rfl ?_, h⟩
      have := (firstError_eq_none.mp he) (_, .addressRange) (by simp; rfl)
      simpa [outOfRange_eq_false, checkedRegions, State.dstRegion] using this
    · exact .inl ⟨c, firstError_isError hc (by simp), h⟩
  case stateLoad | subBytes | invSubBytes | shiftRows | invShiftRows | mixColumns | invMixColumns | addRoundKey | ctrInc =>
    simp only [exec_stateLoad, execStateLoad, exec_subBytes, execSubBytes, exec_invSubBytes, execInvSubBytes, exec_shiftRows,
      execShiftRows, exec_invShiftRows, execInvShiftRows, exec_mixColumns, execMixColumns, exec_invMixColumns,
      execInvMixColumns, exec_addRoundKey, execAddRoundKey, exec_ctrInc, execCtrInc] at h
    rcases runCommand_cases h with ⟨he, h⟩ | ⟨c, hc, h⟩
    · exact .inr ⟨_, .st _ _ rfl, h⟩
    · exact .inl ⟨c, by first | (cases hc) | exact firstError_isError hc (by simp), h⟩
  all_goals
    simp only [exec_encBlock, execEncBlock, exec_decBlock, execDecBlock, exec_pad, execPad, exec_unpad, execUnpad, exec_encCbc,
      execEncCbc, exec_decCbc, execDecCbc, exec_encPcbc, execEncPcbc, exec_decPcbc, execDecPcbc, exec_encCfb, execEncCfb,
      exec_decCfb, execDecCfb, exec_encOfb, execEncOfb, exec_decOfb, execDecOfb, exec_encCtr, execEncCtr, exec_decCtr,
      execDecCtr, blockErrors, modeErrors, paddedDecryptErrors] at h
    rcases runDataCommand_cases h with ⟨b, he, ho, h⟩ | ⟨c, hc, h⟩ | ⟨-, -, h⟩
    · refine .inr ⟨_, .output _ _ rfl ?_, h⟩
      have hr := (firstError_eq_none.mp he) (outOfRange _ s, .addressRange) (by simp; rfl)
      simp only [outOfRange_eq_false, checkedRegions, State.dstRegion, State.srcRegion, State.len,
        State.ivRegion, List.mem_cons, List.not_mem_nil, or_false, forall_eq_or_imp, forall_eq] at hr
      have hs := State.srcData_length s
      first
      | (cases ho
         simp only [Block.toBytes_length, padData_length, hs, paddedOutput_length _ (cbcEncrypt_length _ _),
           paddedOutput_length _ (pcbcEncrypt_length _ _ _),
           streamOutput_length _ (cfbEncrypt_lengths _ _), streamOutput_length _ (cfbDecrypt_lengths _ _),
           streamOutput_length _ (ofbBlocks_lengths _ _), streamOutput_length _ (ctrBlocks_lengths _ _)]
         omega)
      | (have := unpadData_length_le ho; omega)
      | (have := unpaddedOutput_length _ (cbcDecrypt_length _ _) ho; omega)
      | (have := unpaddedOutput_length _ (pcbcDecrypt_length _ _ _) ho; omega)
    · exact .inl ⟨c, firstError_isError hc (by simp), h⟩
    · exact .inl ⟨_, by simp, h⟩

/-- A command always answers a next state (70_reset_and_hazards.md R376). -/
theorem exec_next (i : Instr) (s : State) : ∃ t, exec i s = .next t := by
  cases i <;> simp only [
    exec_nop, execNop, exec_gfAdd, execGfAdd, exec_gfDouble, execGfDouble, exec_gfMul, execGfMul, exec_gfSbox,
    execGfSbox, exec_gfInvSbox, execGfInvSbox, exec_gfRcon, execGfRcon, exec_keyExpand, execKeyExpand, exec_rkStore,
    execRkStore, exec_stateLoad, execStateLoad, exec_stateStore, execStateStore, exec_subBytes, execSubBytes,
    exec_invSubBytes, execInvSubBytes, exec_shiftRows, execShiftRows, exec_invShiftRows, execInvShiftRows,
    exec_mixColumns, execMixColumns, exec_invMixColumns, execInvMixColumns, exec_addRoundKey, execAddRoundKey,
    exec_encBlock, execEncBlock, exec_decBlock, execDecBlock, exec_pad, execPad, exec_unpad, execUnpad, exec_encCbc,
    execEncCbc, exec_decCbc, execDecCbc, exec_encPcbc, execEncPcbc, exec_decPcbc, execDecPcbc, exec_encCfb,
    execEncCfb, exec_decCfb, execDecCfb, exec_encOfb, execEncOfb, exec_decOfb, execDecOfb, exec_encCtr, execEncCtr,
    exec_decCtr, execDecCtr, exec_ctrInc, execCtrInc, runCommand_next, runDataCommand_next]

/-- A command word runs the command it decodes to, or raises ILLEGAL_COMMAND (10_state.md R41, 30_encoding.md R101). -/
theorem issueCommand_cases {v : Word} {s t : State} (h : issueCommand v s = .next t) :
    (∃ i, decode v = .command i ∧ exec i s = .next t) ∨
    ((∃ why, decode v = .illegal why) ∧ t = s.raiseError v false .illegalCommand) := by
  unfold issueCommand at h
  split at h
  · exact .inl ⟨_, ‹_›, h⟩
  · exact .inr ⟨⟨_, ‹_›⟩, by simpa using h.symm⟩

/-- Whether the slot holds a whole key depends on RK and the key status alone (10_state.md R38). -/
theorem State.HoldsKey.congr {s t : State} (h : s.HoldsKey) (hrk : t.rk = s.rk)
    (hv : t.status.keyValid = s.status.keyValid) (hk : t.status.nk = s.status.nk) (hr : t.status.nr = s.status.nr) :
    t.HoldsKey := by
  unfold State.HoldsKey State.rounds at *
  rw [hrk, hv, hk, hr]
  exact h

end Sys2Proof.Machine
end

