-- ==== Sys2Proof/Laws/PerInstr.lean ====
section
/-!
SUPPORT. The family EncodeMatchesRow: the command word of every command selects the row of spec/opcode_table.json that
has its mnemonic (30_encoding.md R106).
-/

namespace Sys2Proof

/-- A masked-out field reads 0. -/
theorem and_zero_field {w : Nat} (x : BitVec w) : x &&& 0 = 0 := BitVec.and_zero

/-- The bits of a command word under a mask, field by field. -/
theorem Fields.toWord_and (f g : Fields) : f.toWord &&& g.toWord =
    (Fields.mk (f.a &&& g.a) (f.b &&& g.b) (f.rk &&& g.rk) (f.resv &&& g.resv) (f.mode &&& g.mode)
      (f.opc &&& g.opc)).toWord := by
  refine BitVec.eq_of_getLsbD_eq fun i hi => ?_
  simp only [Fields.toWord, BitVec.getLsbD_append, BitVec.getLsbD_and]
  interval_cases i <;> simp

end Sys2Proof

namespace Sys2Proof.Laws.EncodeMatchesRow

/-- A row of the command's mnemonic is selected by the command's word. -/
def Statement (i : Instr) : Prop :=
  ∃ r ∈ opcodeRows, r.mnemonic = i.source.mnemonic ∧ r.selects (encode i) = true

/-- A row whose mask is the word of the fields `g`, selected by a command word. -/
theorem of_mask {i : Instr} (r : OpcodeRow) (g : Fields) (hr : r ∈ opcodeRows)
    (hm : r.mnemonic = i.source.mnemonic) (hg : g.toWord = r.mask)
    (hv : (Fields.mk (i.fields.a &&& g.a) (i.fields.b &&& g.b) (i.fields.rk &&& g.rk) (i.fields.resv &&& g.resv)
      (i.fields.mode &&& g.mode) (i.fields.opc &&& g.opc)).toWord = r.value) : Statement i := by
  refine ⟨r, hr, hm, ?_⟩
  rw [OpcodeRow.selects, ← hg, encode, Fields.toWord_and, hv]
  simp

theorem nop : Statement .nop := ⟨⟨"NOP", 0x00000000, 0xFFFFFFFF⟩, by decide, by decide, by decide⟩

theorem gfAdd (a b : Byte) : Statement (.gfAdd a b) :=
  of_mask ⟨"GF_ADD", 0x00000010, 0x0000FFFF⟩
    ⟨0, 0, 0xF, 1, 7, 0xFF⟩ (by decide) rfl (by decide) (by simp only [Instr.fields, Fields.plain, and_zero_field]; decide)

theorem gfDouble (a : Byte) : Statement (.gfDouble a) :=
  of_mask ⟨"GF_DOUBLE", 0x00000011, 0x00FFFFFF⟩
    ⟨0, 0xFF, 0xF, 1, 7, 0xFF⟩ (by decide) rfl (by decide) (by simp only [Instr.fields, Fields.plain, and_zero_field]; decide)

theorem gfMul (a b : Byte) : Statement (.gfMul a b) :=
  of_mask ⟨"GF_MUL", 0x00000012, 0x0000FFFF⟩
    ⟨0, 0, 0xF, 1, 7, 0xFF⟩ (by decide) rfl (by decide) (by simp only [Instr.fields, Fields.plain, and_zero_field]; decide)

theorem gfSbox (a : Byte) : Statement (.gfSbox a) :=
  of_mask ⟨"GF_SBOX", 0x00000013, 0x00FFFFFF⟩
    ⟨0, 0xFF, 0xF, 1, 7, 0xFF⟩ (by decide) rfl (by decide) (by simp only [Instr.fields, Fields.plain, and_zero_field]; decide)

theorem gfInvSbox (a : Byte) : Statement (.gfInvSbox a) :=
  of_mask ⟨"GF_INV_SBOX", 0x00000014, 0x00FFFFFF⟩
    ⟨0, 0xFF, 0xF, 1, 7, 0xFF⟩ (by decide) rfl (by decide) (by simp only [Instr.fields, Fields.plain, and_zero_field]; decide)

theorem gfRcon (i : Byte) : Statement (.gfRcon i) :=
  of_mask ⟨"GF_RCON", 0x00000015, 0x00FFFFFF⟩
    ⟨0, 0xFF, 0xF, 1, 7, 0xFF⟩ (by decide) rfl (by decide) (by simp only [Instr.fields, Fields.plain, and_zero_field]; decide)

theorem keyExpand : Statement .keyExpand := ⟨⟨"KEY_EXPAND", 0x00000020, 0xFFFFFFFF⟩, by decide, by decide, by decide⟩

theorem rkStore (r : BitVec 4) : Statement (.rkStore r) :=
  of_mask ⟨"RK_STORE", 0x00000021, 0xFFFF0FFF⟩
    ⟨0xFF, 0xFF, 0, 1, 7, 0xFF⟩ (by decide) rfl (by decide) (by simp only [Instr.fields, Fields.plain, and_zero_field]; decide)

theorem stateLoad : Statement .stateLoad := ⟨⟨"STATE_LOAD", 0x00000030, 0xFFFFFFFF⟩, by decide, by decide, by decide⟩

theorem stateStore : Statement .stateStore := ⟨⟨"STATE_STORE", 0x00000031, 0xFFFFFFFF⟩, by decide, by decide, by decide⟩

theorem subBytes : Statement .subBytes := ⟨⟨"SUB_BYTES", 0x00000032, 0xFFFFFFFF⟩, by decide, by decide, by decide⟩

theorem invSubBytes : Statement .invSubBytes := ⟨⟨"INV_SUB_BYTES", 0x00000033, 0xFFFFFFFF⟩, by decide, by decide, by decide⟩

theorem shiftRows : Statement .shiftRows := ⟨⟨"SHIFT_ROWS", 0x00000034, 0xFFFFFFFF⟩, by decide, by decide, by decide⟩

theorem invShiftRows : Statement .invShiftRows := ⟨⟨"INV_SHIFT_ROWS", 0x00000035, 0xFFFFFFFF⟩, by decide, by decide, by decide⟩

theorem mixColumns : Statement .mixColumns := ⟨⟨"MIX_COLUMNS", 0x00000036, 0xFFFFFFFF⟩, by decide, by decide, by decide⟩

theorem invMixColumns : Statement .invMixColumns := ⟨⟨"INV_MIX_COLUMNS", 0x00000037, 0xFFFFFFFF⟩, by decide, by decide, by decide⟩

theorem addRoundKey (r : BitVec 4) : Statement (.addRoundKey r) :=
  of_mask ⟨"ADD_ROUND_KEY", 0x00000038, 0xFFFF0FFF⟩
    ⟨0xFF, 0xFF, 0, 1, 7, 0xFF⟩ (by decide) rfl (by decide) (by simp only [Instr.fields, Fields.plain, and_zero_field]; decide)

theorem encBlock : Statement .encBlock := ⟨⟨"ENC_BLOCK", 0x00000040, 0xFFFFFFFF⟩, by decide, by decide, by decide⟩

theorem decBlock : Statement .decBlock := ⟨⟨"DEC_BLOCK", 0x00000041, 0xFFFFFFFF⟩, by decide, by decide, by decide⟩

theorem pad : Statement .pad := ⟨⟨"PAD", 0x00000048, 0xFFFFFFFF⟩, by decide, by decide, by decide⟩

theorem unpad : Statement .unpad := ⟨⟨"UNPAD", 0x00000049, 0xFFFFFFFF⟩, by decide, by decide, by decide⟩

theorem encCbc : Statement .encCbc := ⟨⟨"ENC_CBC", 0x00000050, 0xFFFFFFFF⟩, by decide, by decide, by decide⟩

theorem decCbc : Statement .decCbc := ⟨⟨"DEC_CBC", 0x00000051, 0xFFFFFFFF⟩, by decide, by decide, by decide⟩

theorem encPcbc : Statement .encPcbc := ⟨⟨"ENC_PCBC", 0x00000150, 0xFFFFFFFF⟩, by decide, by decide, by decide⟩

theorem decPcbc : Statement .decPcbc := ⟨⟨"DEC_PCBC", 0x00000151, 0xFFFFFFFF⟩, by decide, by decide, by decide⟩

theorem encCfb : Statement .encCfb := ⟨⟨"ENC_CFB", 0x00000250, 0xFFFFFFFF⟩, by decide, by decide, by decide⟩

theorem decCfb : Statement .decCfb := ⟨⟨"DEC_CFB", 0x00000251, 0xFFFFFFFF⟩, by decide, by decide, by decide⟩

theorem encOfb : Statement .encOfb := ⟨⟨"ENC_OFB", 0x00000350, 0xFFFFFFFF⟩, by decide, by decide, by decide⟩

theorem decOfb : Statement .decOfb := ⟨⟨"DEC_OFB", 0x00000351, 0xFFFFFFFF⟩, by decide, by decide, by decide⟩

theorem encCtr : Statement .encCtr := ⟨⟨"ENC_CTR", 0x00000450, 0xFFFFFFFF⟩, by decide, by decide, by decide⟩

theorem decCtr : Statement .decCtr := ⟨⟨"DEC_CTR", 0x00000451, 0xFFFFFFFF⟩, by decide, by decide, by decide⟩

theorem ctrInc : Statement .ctrInc := ⟨⟨"CTR_INC", 0x00000052, 0xFFFFFFFF⟩, by decide, by decide, by decide⟩

end Sys2Proof.Laws.EncodeMatchesRow
end

