-- ==== Sys2Proof/Tests/Slice0.lean ====
section
/-!
SUPPORT. The model's own tests: the encodings of the rules, one or two steps of each command against the spec's worked
examples and derived vectors (95_test_vectors.md), the checks of WellFormed, and for each statement with hypotheses a
state that meets them.
-/

namespace Sys2Proof.Tests

set_option Elab.async false

open Sys2Proof.Machine Sys2Proof.Claim

/-- The `n` bytes written in hex as the digits of `v`, the first byte first (00_scope.md R15). -/
def bytes (n v : Nat) : List Byte := (List.range n).map fun i => BitVec.ofNat 8 (v >>> (8 * (n - 1 - i)))

/-- The block of 16 bytes in hex. -/
def block (v : Nat) : Block := blockOf (bytes 16 v)

/-- The state of a next-state outcome. -/
def nextOf : Host.Outcome State Fault Refusal → Option State
  | .next t => some t
  | .fault _ | .refused _ => none

/-- What `f` reads after the command word `w` is written to CMD in `s`. -/
def after {α : Type} (s : State) (w : Nat) (f : State → α) : Option α := (nextOf (step (s.withFetchWord 32 w))).map f

/-- The state after reset with the host about to do `actions`. -/
def hostDoes (actions : List HostAction) : State := { State.reset with pending := actions }

/-- The state after reset with STATE holding `v`. -/
def withSt (v : Nat) : State := { State.reset with st := block v }

/-- The state after reset with a key loaded. -/
def withKey (key : List Byte) : State := State.reset.loadKey key

/-- KA of 95_test_vectors.md. -/
def keyA : List Byte := (bytes 16 0x2b7e151628aed2a6abf7158809cf4f3c)

/-- A key loaded, `d` at 0x200 as the input, the output at 0x300. -/
def blockState (key d : List Byte) : State :=
  { (withKey key).memWrite 0x200 d with srcAddr := 0x200, srcLen := BitVec.ofNat 32 d.length, dstAddr := 0x300 }

/-- KA loaded, `iv` at 0x100, `d` at 0x200 as the input, the output at 0x300. -/
def modeState (iv d : List Byte) : State := { (blockState keyA d).memWrite 0x100 iv with ivAddr := 0x100, ivLen := 16 }

/-- The output, OUT_LEN and STATUS after a data command. -/
def output (n : Nat) (t : State) : List Byte × Word × Word := (t.memRead 0x300 n, t.outLen, t.status.toWord)

/-- STATUS, ERR_CMD and OUT_LEN after an error. -/
def report (t : State) : Word × Word × Word := (t.status.toWord, t.errCmd, t.outLen)

/-! ### Decoding: each constructor's word written out from its rule's encoding -/

/-- 40_gf256.md R150 to R155, 47_system.md R320: the words of the rules' examples. -/
theorem test_decode_gf :
    decode 0x00000000 = .command .nop ∧
    decode 0x57830010 = .command (.gfAdd 0x57 0x83) ∧
    decode 0x57000011 = .command (.gfDouble 0x57) ∧
    decode 0x57830012 = .command (.gfMul 0x57 0x83) ∧
    decode 0x53000013 = .command (.gfSbox 0x53) ∧
    decode 0xED000014 = .command (.gfInvSbox 0xED) ∧
    decode 0x09000015 = .command (.gfRcon 9) := by
  decide

/-- 41_key_schedule.md R180, R181: the words of the rules' examples. -/
theorem test_decode_key :
    decode 0x00000020 = .command .keyExpand ∧
    decode 0x0000A021 = .command (.rkStore 10) := by
  decide

/-- 42_round_transform.md R210 to R218: the rules' words. -/
theorem test_decode_round :
    decode 0x00000030 = .command .stateLoad ∧
    decode 0x00000031 = .command .stateStore ∧
    decode 0x00000032 = .command .subBytes ∧
    decode 0x00000033 = .command .invSubBytes ∧
    decode 0x00000034 = .command .shiftRows ∧
    decode 0x00000035 = .command .invShiftRows ∧
    decode 0x00000036 = .command .mixColumns ∧
    decode 0x00000037 = .command .invMixColumns ∧
    decode 0x00001038 = .command (.addRoundKey 1) := by
  decide

/-- 43_block_cipher.md R245, R246; 44_padding.md R265, R266: the rules' words. -/
theorem test_decode_block_and_padding :
    decode 0x00000040 = .command .encBlock ∧
    decode 0x00000041 = .command .decBlock ∧
    decode 0x00000048 = .command .pad ∧
    decode 0x00000049 = .command .unpad := by
  decide

/-- 45_modes.md R285 to R294, R301: the rules' words. -/
theorem test_decode_modes :
    decode 0x00000050 = .command .encCbc ∧
    decode 0x00000051 = .command .decCbc ∧
    decode 0x00000150 = .command .encPcbc ∧
    decode 0x00000151 = .command .decPcbc ∧
    decode 0x00000250 = .command .encCfb ∧
    decode 0x00000251 = .command .decCfb ∧
    decode 0x00000350 = .command .encOfb ∧
    decode 0x00000351 = .command .decOfb ∧
    decode 0x00000450 = .command .encCtr ∧
    decode 0x00000451 = .command .decCtr ∧
    decode 0x00000052 = .command .ctrInc := by
  decide

/-- The words of the same commands, the other way: 40_gf256.md R152, 41_key_schedule.md R181, 42_round_transform.md R218,
45_modes.md R294. -/
theorem test_encode :
    encode (.gfMul 0x57 0x83) = 0x57830012 ∧
    encode (.rkStore 14) = 0x0000E021 ∧
    encode (.addRoundKey 9) = 0x00009038 ∧
    encode .decCtr = 0x00000451 := by
  decide

/-- 95_test_vectors.md L2.8: illegal words. -/
theorem test_decode_illegal :
    decode 0x00FF0011 = .illegal .reservedBitSet ∧
    decode 0x00001032 = .illegal .reservedBitSet ∧
    decode 0x01000020 = .illegal .reservedBitSet ∧
    decode 0x00000550 = .illegal .reservedMode ∧
    decode 0x00000751 = .illegal .reservedMode ∧
    decode 0x00000850 = .illegal .reservedBitSet ∧
    decode 0x00000950 = .illegal .reservedBitSet ∧
    decode 0x00000152 = .illegal .reservedBitSet ∧
    decode 0x00000053 = .illegal .unassignedOpcode ∧
    decode 0x000000FF = .illegal .unassignedOpcode := by
  decide

/-- spec/opcode_table.json: a row's word as a number; bits above `nbits` are 0. -/
theorem test_decodeTableWord :
    decodeTableWord 32 0x57830012 = some (.gfMul 0x57 0x83) ∧
    decodeTableWord 32 0x100000052 = some .ctrInc ∧
    decodeTableWord 32 0x60 = none := by
  decide

/-! ### WellFormed: each check with an ill-formed term that it refuses -/

/-- 00_scope.md R13: 64 ≤ BUF_SIZE ≤ 2^31. -/
theorem test_config_wf :
    Config.default.wf = true ∧
    (Config.mk 63 0 0).wf = false ∧
    (Config.mk 64 0 0).wf = true ∧
    (Config.mk (2 ^ 31) 0 0).wf = true ∧
    (Config.mk (2 ^ 31 + 1) 0 0).wf = false := by
  decide

/-- 30_encoding.md R109: operands that do not fit their fields. -/
theorem test_fields_fit :
    fitsByte 0xFF = true ∧
    fitsByte 0x100 = false ∧
    fitsIndex 15 = true ∧
    fitsIndex 16 = false ∧
    isModeName "OFB" = true ∧
    isModeName "ECB" = false := by
  decide

/-- 30_encoding.md R109: an unknown mnemonic, a missing and a surplus operand, an operand too large, an unknown mode. -/
theorem test_source_line_wf :
    SourceLine.wf ⟨"GF_DIV", [.num 1]⟩ = false ∧
    SourceLine.wf ⟨"GF_ADD", [.num 1]⟩ = false ∧
    SourceLine.wf ⟨"NOP", [.num 0]⟩ = false ∧
    SourceLine.wf ⟨"GF_MUL", [.num 0x57, .num 0x183]⟩ = false ∧
    SourceLine.wf ⟨"RK_STORE", [.num 16]⟩ = false ∧
    SourceLine.wf ⟨"ENC_MODE", [.mode "ECB"]⟩ = false := by
  decide

/-- 20_memory.md R73: a BUF access at BUF_SIZE is no action of the interface. -/
theorem test_host_action_wf :
    HostAction.wf .default (.bufWrite 65535 1) = true ∧
    HostAction.wf .default (.bufWrite 65536 1) = false ∧
    HostAction.wf .default (.bufRead 65536) = false := by
  decide

/-- 30_encoding.md R109 and R111: lines and their words. -/
theorem test_assemble :
    assemble ⟨"GF_MUL", [.num 0x57, .num 0x83]⟩ = some 0x57830012 ∧
    assemble ⟨"RK_STORE", [.num 10]⟩ = some 0x0000A021 ∧
    assemble ⟨"ENC_MODE", [.mode "CTR"]⟩ = some 0x00000450 ∧
    assemble ⟨"DEC_PCBC", []⟩ = some 0x00000151 ∧
    assemble ⟨"GF_SBOX", [.num 256]⟩ = none := by
  decide

/-- 30_encoding.md R109: the same from the text of a line. -/
theorem test_assembleText :
    assembleText "GF_MUL 0x57, 0x83" = some 0x57830012 ∧ assembleText "RK_STORE 10" = some 0x0000A021 ∧
    assembleText "ENC_MODE CTR" = some 0x00000450 ∧ assembleText "  NOP " = some 0x00000000 ∧
    assembleText "GF_SBOX 256" = none ∧ assembleText "ENC_MODE ECB" = none ∧ assembleText "GF_ADD 0x57" = none ∧
    assembleText "GF_SBOX 0x" = none ∧ assembleText "GF_ADD 1,,2" = none := by
  decide +kernel

/-! ### GF commands (95_test_vectors.md L2.1) -/

/-- 40_gf256.md R150. -/
theorem test_gfAdd :
    after State.reset 0x57830010 (fun t => (t.gfResult, t.status.toWord)) = some (0xD4, 0) := by
  decide +kernel

/-- 40_gf256.md R151: the high bit dropped. -/
theorem test_gfDouble :
    after State.reset 0x80000011 (fun t => (t.gfResult, t.status.toWord)) = some (0x1B, 0) ∧
    after State.reset 0xFF000011 (fun t => (t.gfResult, t.status.toWord)) = some (0xE5, 0) := by
  decide +kernel

/-- 40_gf256.md R152. -/
theorem test_gfMul :
    after State.reset 0x57830012 (fun t => (t.gfResult, t.status.toWord)) = some (0xC1, 0) ∧
    after State.reset 0x53CA0012 (fun t => (t.gfResult, t.status.toWord)) = some (0x01, 0) := by
  decide +kernel

/-- 40_gf256.md R153. -/
theorem test_gfSbox :
    after State.reset 0x53000013 (fun t => (t.gfResult, t.status.toWord)) = some (0xED, 0) ∧
    after State.reset 0xFF000013 (fun t => (t.gfResult, t.status.toWord)) = some (0x16, 0) := by
  decide +kernel

/-- 40_gf256.md R154. -/
theorem test_gfInvSbox :
    after State.reset 0xED000014 (fun t => (t.gfResult, t.status.toWord)) = some (0x53, 0) ∧
    after State.reset 0xFF000014 (fun t => (t.gfResult, t.status.toWord)) = some (0x7D, 0) := by
  decide +kernel

/-- 40_gf256.md R155. -/
theorem test_gfRcon :
    after State.reset 0x09000015 (fun t => (t.gfResult, t.status.toWord)) = some (0x1B, 0) ∧
    after State.reset 0x0A000015 (fun t => (t.gfResult, t.status.toWord)) = some (0x36, 0) := by
  decide +kernel

/-- 40_gf256.md R155: indexes 0 and 11. -/
theorem test_gfRcon_bad :
    after State.reset 0x00000015 report = some (0x00001206, 0x00000015, 0) ∧
    after State.reset 0x0B000015 report = some (0x00001206, 0x0B000015, 0) := by
  decide +kernel

/-! ### Key expander (95_test_vectors.md L2.2) -/

/-- The state with a key at 0x40 for KEY_EXPAND. -/
def keyState (key : List Byte) : State :=
  { State.reset.memWrite 0x40 key with keyAddr := 0x40, keyLen := BitVec.ofNat 32 key.length }

/-- 41_key_schedule.md R180, 95_test_vectors.md L2.2: the last round key and STATUS. -/
theorem test_keyExpand_KA :
    after (keyState (bytes 16 0x2b7e151628aed2a6abf7158809cf4f3c)) 0x00000020 (fun t => (roundKey t.rk 10, t.status.toWord)) =
      some (block 0xd014f9a8c9ee2589e13f0cc8b6630ca6, 0x00A40008) := by
  decide +kernel

/-- 41_key_schedule.md R180, 95_test_vectors.md L2.2: the last round key and STATUS. -/
theorem test_keyExpand_K192 :
    after (keyState (bytes 24 0x000102030405060708090a0b0c0d0e0f1011121314151617)) 0x00000020 (fun t => (roundKey t.rk 12, t.status.toWord)) =
      some (block 0xa4970a331a78dc09c418c271e3a41d5d, 0x00C60008) := by
  decide +kernel

/-- 41_key_schedule.md R180, 95_test_vectors.md L2.2: the last round key and STATUS. -/
theorem test_keyExpand_K256 :
    after (keyState (bytes 32 0x000102030405060708090a0b0c0d0e0f101112131415161718191a1b1c1d1e1f)) 0x00000020 (fun t => (roundKey t.rk 14, t.status.toWord)) =
      some (block 0x24fc79ccbf0979e9371ac23c6d68de36, 0x00E80008) := by
  decide +kernel

/-- 95_test_vectors.md L2.2: the length is checked before the region. -/
theorem test_keyExpand_errors :
    after { State.reset with keyLen := 20, keyAddr := 65536 } 0x20 report = some (0x00000106, 0x20, 0) ∧
    after { State.reset with keyLen := 16, keyAddr := 65521 } 0x20 report = some (0x00001306, 0x20, 0) := by
  decide +kernel

/-- 95_test_vectors.md L2.2: RK_STORE 10 with KA. -/
theorem test_rkStore :
    after { withKey keyA with dstAddr := 65520 } 0x0000A021 (fun t => (blockOf (t.memRead 65520 16), t.outLen)) =
      some (block 0xd014f9a8c9ee2589e13f0cc8b6630ca6, 0) := by
  decide +kernel

/-- 95_test_vectors.md L2.2: no key, and an index above NR. -/
theorem test_rkStore_errors :
    after State.reset 0x00000021 report = some (0x00001106, 0x00000021, 0) ∧
    after (withKey keyA) 0x0000B021 report = some (0x00A4120E, 0x0000B021, 0) := by
  decide +kernel

/-! ### Round engine (95_test_vectors.md L2.3, L2.7) -/

/-- 42_round_transform.md R212. -/
theorem test_subBytes :
    after (withSt 0x193de3bea0f4e22b9ac68d2ae9f84808) 0x32 State.st = some (block 0xd42711aee0bf98f1b8b45de51e415230) := by
  decide +kernel

/-- 42_round_transform.md R213. -/
theorem test_invSubBytes :
    after (withSt 0xd42711aee0bf98f1b8b45de51e415230) 0x33 State.st = some (block 0x193de3bea0f4e22b9ac68d2ae9f84808) := by
  decide +kernel

/-- 42_round_transform.md R214. -/
theorem test_shiftRows :
    after (withSt 0x000102030405060708090a0b0c0d0e0f) 0x34 State.st = some (block 0x00050a0f04090e03080d02070c01060b) := by
  decide +kernel

/-- 42_round_transform.md R215. -/
theorem test_invShiftRows :
    after (withSt 0x000102030405060708090a0b0c0d0e0f) 0x35 State.st = some (block 0x000d0a0704010e0b0805020f0c090603) := by
  decide +kernel

/-- 42_round_transform.md R216. -/
theorem test_mixColumns :
    after (withSt 0xdb135345f20a225c01010101c6c6c6c6) 0x36 State.st = some (block 0x8e4da1bc9fdc589d01010101c6c6c6c6) := by
  decide +kernel

/-- 42_round_transform.md R217. -/
theorem test_invMixColumns :
    after (withSt 0x046681e5e0cb199a48f8d37a2806264c) 0x37 State.st = some (block 0xd4bf5d30e0b452aeb84111f11e2798e5) := by
  decide +kernel

/-- 45_modes.md R301. -/
theorem test_ctrInc :
    after (withSt 0xf0f1f2f3f4f5f6f7f8f9fafbfcfdfeff) 0x52 State.st = some (block 0xf0f1f2f3f4f5f6f7f8f9fafbfcfdff00) := by
  decide +kernel

/-- 45_modes.md R301: the wrap sets no flag. -/
theorem test_ctrInc_wraps :
    after (withSt 0xffffffffffffffffffffffffffffffff) 0x52 (fun t => (t.st, t.status.toWord)) = some (block 0, 0) := by
  decide +kernel

/-- 42_round_transform.md R218. -/
theorem test_addRoundKey :
    after { withKey keyA with st := block 0x046681e5e0cb199a48f8d37a2806264c } 0x00001038 State.st =
      some (block 0xa49c7ff2689f352b6b5bea43026a5049) := by
  decide +kernel

/-- 95_test_vectors.md L2.3: an index above NR leaves STATE. -/
theorem test_addRoundKey_errors :
    after { withKey keyA with st := block 7 } 0x0000B038 (fun t => (t.st, report t)) =
      some (block 7, 0x00A4120E, 0x0000B038, 0) := by
  decide +kernel

/-- 42_round_transform.md R210. -/
theorem test_stateLoad :
    after { State.reset.memWrite 65520 (bytes 16 0x3243f6a8885a308d313198a2e0370734) with srcAddr := 65520 } 0x30 State.st =
      some (block 0x3243f6a8885a308d313198a2e0370734) ∧
    after { State.reset with srcAddr := 65521 } 0x30 report = some (0x00001306, 0x30, 0) := by
  decide +kernel

/-- 42_round_transform.md R211. -/
theorem test_stateStore :
    after { withSt 0x3243f6a8885a308d313198a2e0370734 with dstAddr := 0x100 } 0x31 (fun t => t.memRead 0x100 16) =
      some (bytes 16 0x3243f6a8885a308d313198a2e0370734) := by
  decide +kernel

/-! ### Block cipher (95_test_vectors.md L2.4) -/

/-- 43_block_cipher.md R247, 95_test_vectors.md L2.4, both directions. -/
theorem test_blocks_K128 :
    after (blockState (bytes 16 0x000102030405060708090a0b0c0d0e0f) (bytes 16 0x00112233445566778899aabbccddeeff)) 0x40 (output 16) = some (bytes 16 0x69c4e0d86a7b0430d8cdb78070b4c55a, 16, 0x00A40008) ∧
    after (blockState (bytes 16 0x000102030405060708090a0b0c0d0e0f) (bytes 16 0x69c4e0d86a7b0430d8cdb78070b4c55a)) 0x41 (output 16) = some (bytes 16 0x00112233445566778899aabbccddeeff, 16, 0x00A40008) := by
  decide +kernel

/-- 43_block_cipher.md R247, 95_test_vectors.md L2.4, both directions. -/
theorem test_blocks_K192 :
    after (blockState (bytes 24 0x000102030405060708090a0b0c0d0e0f1011121314151617) (bytes 16 0x00112233445566778899aabbccddeeff)) 0x40 (output 16) = some (bytes 16 0xdda97ca4864cdfe06eaf70a0ec0d7191, 16, 0x00C60008) ∧
    after (blockState (bytes 24 0x000102030405060708090a0b0c0d0e0f1011121314151617) (bytes 16 0xdda97ca4864cdfe06eaf70a0ec0d7191)) 0x41 (output 16) = some (bytes 16 0x00112233445566778899aabbccddeeff, 16, 0x00C60008) := by
  decide +kernel

/-- 43_block_cipher.md R247, 95_test_vectors.md L2.4, both directions. -/
theorem test_blocks_K256 :
    after (blockState (bytes 32 0x000102030405060708090a0b0c0d0e0f101112131415161718191a1b1c1d1e1f) (bytes 16 0x00112233445566778899aabbccddeeff)) 0x40 (output 16) = some (bytes 16 0x8ea2b7ca516745bfeafc49904b496089, 16, 0x00E80008) ∧
    after (blockState (bytes 32 0x000102030405060708090a0b0c0d0e0f101112131415161718191a1b1c1d1e1f) (bytes 16 0x8ea2b7ca516745bfeafc49904b496089)) 0x41 (output 16) = some (bytes 16 0x00112233445566778899aabbccddeeff, 16, 0x00E80008) := by
  decide +kernel

/-- 43_block_cipher.md R245, 95_test_vectors.md L2.4: the key before the length, the length before the region. -/
theorem test_block_errors :
    after { State.reset with outLen := 5 } 0x40 report = some (0x00001106, 0x40, 0) ∧
    after { withKey keyA with srcLen := 32, dstAddr := 65528, outLen := 5 } 0x41 report = some (0x00A4030E, 0x41, 0) ∧
    after { withKey keyA with srcLen := 16, dstAddr := 65528 } 0x40 report = some (0x00A4130E, 0x40, 0) := by
  decide +kernel

/-! ### Padding (95_test_vectors.md L2.5) -/

/-- `d` at 0x200 as the input, no key, the output at 0x300. -/
def padState (d : List Byte) : State :=
  { State.reset.memWrite 0x200 d with srcAddr := 0x200, srcLen := BitVec.ofNat 32 d.length, dstAddr := 0x300 }

/-- 44_padding.md R265. -/
theorem test_pad :
    after (padState (bytes 5 0x68656c6c6f)) 0x48 (output 16) = some (bytes 16 0x68656c6c6f0b0b0b0b0b0b0b0b0b0b0b, 16, 0) ∧
    after (padState []) 0x48 (output 16) = some (bytes 16 0x10101010101010101010101010101010, 16, 0) := by
  decide +kernel

/-- 95_test_vectors.md L2.5: the padded length is checked. -/
theorem test_pad_region :
    after { padState (bytes 5 0x68656c6c6f) with dstAddr := 65521 } 0x48 report = some (0x00001306, 0x48, 0) := by
  decide +kernel

/-- 44_padding.md R266: k = 1 after a 0x02, and a length that is no multiple of 16. -/
theorem test_unpad :
    after (padState (bytes 16 0x00000000000000000000000000000201)) 0x49 (output 15) = some (bytes 15 0x000000000000000000000000000002, 15, 0) ∧
    after (padState (bytes 5 0x0404040404)) 0x49 (output 1) = some ([0x04], 1, 0) := by
  decide +kernel

/-- 95_test_vectors.md L2.5: every PADDING_ERROR row. -/
theorem test_unpad_errors :
    after (padState (bytes 16 0x00000000000000000000000000000102)) 0x49 report = some (0x00000406, 0x49, 0) ∧
    after (padState (bytes 16 0x00000000000000000000000000000000)) 0x49 report = some (0x00000406, 0x49, 0) ∧
    after (padState (bytes 16 0x00000000000000000000000000000011)) 0x49 report = some (0x00000406, 0x49, 0) ∧
    after (padState []) 0x49 report = some (0x00000406, 0x49, 0) ∧
    after (padState (bytes 3 0x000005)) 0x49 report = some (0x00000406, 0x49, 0) := by
  decide +kernel

/-! ### Chaining modes (95_test_vectors.md L2.6) -/

/-- 45_modes.md R285. -/
theorem test_encCbc :
    after (modeState (bytes 16 0x000102030405060708090a0b0c0d0e0f) (bytes 32 0x6bc1bee22e409f96e93d7e117393172aae2d8a571e03ac9c9eb76fac45af8e51)) 0x050 (output 48) =
      some (bytes 48 0x7649abac8119b246cee98e9b12e9197d5086cb9b507219ee95db113a917678b255e21d7100b988ffec32feeafaf23538, 48, 0x00A40008) ∧
    after (modeState (bytes 16 0x000102030405060708090a0b0c0d0e0f) []) 0x050 (output 16) =
      some (bytes 16 0xc84af0b613435d5d9182801a9bd9320b, 16, 0x00A40008) := by
  decide +kernel

/-- 45_modes.md R286. -/
theorem test_decCbc :
    after (modeState (bytes 16 0x000102030405060708090a0b0c0d0e0f) (bytes 48 0x7649abac8119b246cee98e9b12e9197d5086cb9b507219ee95db113a917678b255e21d7100b988ffec32feeafaf23538)) 0x051 (output 32) =
      some (bytes 32 0x6bc1bee22e409f96e93d7e117393172aae2d8a571e03ac9c9eb76fac45af8e51, 32, 0x00A40008) ∧
    after (modeState (bytes 16 0x000102030405060708090a0b0c0d0e0f) (bytes 16 0xc84af0b613435d5d9182801a9bd9320b)) 0x051 (output 0) =
      some ([], 0, 0x00A40008) := by
  decide +kernel

/-- 45_modes.md R287. -/
theorem test_encPcbc :
    after (modeState (bytes 16 0x000102030405060708090a0b0c0d0e0f) (bytes 32 0x6bc1bee22e409f96e93d7e117393172aae2d8a571e03ac9c9eb76fac45af8e51)) 0x150 (output 48) =
      some (bytes 48 0x7649abac8119b246cee98e9b12e9197d9e8baff12ad5270a0d1eef93d7037994c5a9ada96a3b6ace2fc99f6f2932af0d, 48, 0x00A40008) ∧
    after (modeState (bytes 16 0x000102030405060708090a0b0c0d0e0f) (bytes 5 0x68656c6c6f)) 0x150 (output 16) =
      some (bytes 16 0xd8666ea8aad65cc08354b4bc43d4ff56, 16, 0x00A40008) := by
  decide +kernel

/-- 45_modes.md R288. -/
theorem test_decPcbc :
    after (modeState (bytes 16 0x000102030405060708090a0b0c0d0e0f) (bytes 48 0x7649abac8119b246cee98e9b12e9197d9e8baff12ad5270a0d1eef93d7037994c5a9ada96a3b6ace2fc99f6f2932af0d)) 0x151 (output 32) =
      some (bytes 32 0x6bc1bee22e409f96e93d7e117393172aae2d8a571e03ac9c9eb76fac45af8e51, 32, 0x00A40008) := by
  decide +kernel

/-- 45_modes.md R289. -/
theorem test_encCfb :
    after (modeState (bytes 16 0x000102030405060708090a0b0c0d0e0f) (bytes 32 0x6bc1bee22e409f96e93d7e117393172aae2d8a571e03ac9c9eb76fac45af8e51)) 0x250 (output 32) =
      some (bytes 32 0x3b3fd92eb72dad20333449f8e83cfb4ac8a64537a0b3a93fcde3cdad9f1ce58b, 32, 0x00A40008) ∧
    after (modeState (bytes 16 0x000102030405060708090a0b0c0d0e0f) (bytes 21 0x6bc1bee22e409f96e93d7e117393172aae2d8a571e)) 0x250 (output 21) =
      some (bytes 21 0x3b3fd92eb72dad20333449f8e83cfb4ac8a64537a0, 21, 0x00A40008) := by
  decide +kernel

/-- 45_modes.md R290. -/
theorem test_decCfb :
    after (modeState (bytes 16 0x000102030405060708090a0b0c0d0e0f) (bytes 32 0x3b3fd92eb72dad20333449f8e83cfb4ac8a64537a0b3a93fcde3cdad9f1ce58b)) 0x251 (output 32) =
      some (bytes 32 0x6bc1bee22e409f96e93d7e117393172aae2d8a571e03ac9c9eb76fac45af8e51, 32, 0x00A40008) ∧
    after (modeState (bytes 16 0x000102030405060708090a0b0c0d0e0f) (bytes 21 0x3b3fd92eb72dad20333449f8e83cfb4ac8a64537a0)) 0x251 (output 21) =
      some (bytes 21 0x6bc1bee22e409f96e93d7e117393172aae2d8a571e, 21, 0x00A40008) := by
  decide +kernel

/-- 45_modes.md R291. -/
theorem test_encOfb :
    after (modeState (bytes 16 0x000102030405060708090a0b0c0d0e0f) (bytes 32 0x6bc1bee22e409f96e93d7e117393172aae2d8a571e03ac9c9eb76fac45af8e51)) 0x350 (output 32) =
      some (bytes 32 0x3b3fd92eb72dad20333449f8e83cfb4a7789508d16918f03f53c52dac54ed825, 32, 0x00A40008) ∧
    after (modeState (bytes 16 0x000102030405060708090a0b0c0d0e0f) (bytes 21 0x6bc1bee22e409f96e93d7e117393172aae2d8a571e)) 0x350 (output 21) =
      some (bytes 21 0x3b3fd92eb72dad20333449f8e83cfb4a7789508d16, 21, 0x00A40008) := by
  decide +kernel

/-- 45_modes.md R292. -/
theorem test_decOfb :
    after (modeState (bytes 16 0x000102030405060708090a0b0c0d0e0f) (bytes 32 0x3b3fd92eb72dad20333449f8e83cfb4a7789508d16918f03f53c52dac54ed825)) 0x351 (output 32) =
      some (bytes 32 0x6bc1bee22e409f96e93d7e117393172aae2d8a571e03ac9c9eb76fac45af8e51, 32, 0x00A40008) := by
  decide +kernel

/-- 45_modes.md R293. -/
theorem test_encCtr :
    after (modeState (bytes 16 0xf0f1f2f3f4f5f6f7f8f9fafbfcfdfeff) (bytes 32 0x6bc1bee22e409f96e93d7e117393172aae2d8a571e03ac9c9eb76fac45af8e51)) 0x450 (output 32) =
      some (bytes 32 0x874d6191b620e3261bef6864990db6ce9806f66b7970fdff8617187bb9fffdff, 32, 0x00A40008) ∧
    after (modeState (bytes 16 0xffffffffffffffffffffffffffffffff) (bytes 21 0x6bc1bee22e409f96e93d7e117393172aae2d8a571e)) 0x450 (output 21) =
      some (bytes 21 0xe13338e36cb71962e00d020b4cedbd86d3dae15b04, 21, 0x00A40008) := by
  decide +kernel

/-- 45_modes.md R294. -/
theorem test_decCtr :
    after (modeState (bytes 16 0xf0f1f2f3f4f5f6f7f8f9fafbfcfdfeff) (bytes 32 0x874d6191b620e3261bef6864990db6ce9806f66b7970fdff8617187bb9fffdff)) 0x451 (output 32) =
      some (bytes 32 0x6bc1bee22e409f96e93d7e117393172aae2d8a571e03ac9c9eb76fac45af8e51, 32, 0x00A40008) := by
  decide +kernel

/-- 95_test_vectors.md L2.6: the order of the checks, and the padded output region. -/
theorem test_mode_errors :
    after State.reset 0x450 report = some (0x00001106, 0x450, 0) ∧
    after { withKey keyA with ivLen := 8, srcLen := 15 } 0x51 report = some (0x00A4020E, 0x51, 0) ∧
    after { withKey keyA with ivLen := 16, srcLen := 40 } 0x151 report = some (0x00A4030E, 0x151, 0) ∧
    after { withKey keyA with ivLen := 16, srcLen := 16, dstAddr := 65520 } 0x50 report = some (0x00A4130E, 0x50, 0) := by
  decide +kernel

/-- 95_test_vectors.md L2.6, L3.3: PADDING_ERROR after the last byte was changed; nothing is written. -/
theorem test_decCbc_tampered :
    after (modeState (bytes 16 0x000102030405060708090a0b0c0d0e0f) (bytes 16 0xd8666ea8aad65cc08354b4bc43d4ff57)) 0x51 (fun t => (report t, t.memRead 0x300 16)) =
      some ((0x00A4040E, 0x51, 0), List.replicate 16 0) := by
  decide +kernel

/-! ### System, status and the host's interface (95_test_vectors.md L2.8, L2.9) -/

/-- 47_system.md R320: NOP after an error. -/
theorem test_nop :
    after { State.reset with status := State.reset.status.errored .paddingError, errCmd := 0x49 } 0 report =
      some (0x00000004, 0x49, 0) := by
  decide +kernel

/-- 95_test_vectors.md L2.8, L3.5: OUT_LEN stays. -/
theorem test_illegal :
    after { State.reset with outLen := 21 } 0x60 report = some (0x00001006, 0x60, 21) := by
  decide +kernel

/-- 95_test_vectors.md L3.5, its first commands: what the host reads back. -/
theorem test_host_program :
    (match Sys2Proof.core.run 9 (hostDoes (setio 0x10 16 0x20 ++ cmd .encBlock ++ [.regRead regStatus] ++
        cmd (.gfMul 0x57 0x83) ++ [.regRead regGfResult, .regRead regErrCmd, .regRead regCmd])) with
      | .next t => State.replies t
      | _ => []) =
      [.register 0x00001106, .register 0x000000C1, .register 0x00000040, .register 0] := by
  decide +kernel

/-- 20_memory.md R73. -/
theorem test_buf_access :
    (nextOf (step { State.reset with pending := [.bufWrite 65535 0xAB] })).map (fun t => t.buf.read 65535) = some 0xAB ∧
    step { State.reset with pending := [.bufRead 65536] } = .refused (.bufAccessOutOfRange 65536) :=
  ⟨by decide +kernel, rfl⟩

/-- The canonical form: writing the value of an unlisted byte removes the entry, and order does not matter. -/
theorem test_memory_canonical :
    ((Memory.mk []).write 3 7).write 3 0 = Memory.mk [] ∧
    ((Memory.mk []).write 3 7).write 1 9 = ((Memory.mk []).write 1 9).write 3 7 := by
  decide +kernel

/-! ### Witnesses: for each statement with hypotheses, a state and operands that meet them all -/

/-- KA loaded, every address register at the last 16 bytes of BUF, the lengths 16. -/
def edgeState : State :=
  { withKey keyA with
    keyAddr := 65520, keyLen := 16, ivAddr := 65520, ivLen := 16, srcAddr := 65520, srcLen := 16, dstAddr := 65520 }

theorem witness_EncodeOfDecodeIsTheWord :
    decode 0x0000F038 = .command (.addRoundKey 15) :=
  by decide +kernel

theorem witness_DecodingAcceptsExactlyTheTableRows :
    (∃ i, decode 0x00FF0011 = .command i) ∨ decode 0xFFFF0010 = .command (.gfAdd 0xFF 0xFF) :=
  .inr (by decide)

theorem witness_AssemblerGivesEveryCommandItsWord :
    (ChainMode.ctr, "CTR") ∈ [(ChainMode.cbc, "CBC"), (.pcbc, "PCBC"), (.cfb, "CFB"), (.ofb, "OFB"), (.ctr, "CTR")] ∧
    0xFF < 256 ∧ 15 < 16 ∧ "ECB" ∉ ["CBC", "PCBC", "CFB", "OFB", "CTR"] :=
  by decide

theorem witness_GfCommandsPutTheirByteInGfResult :
    (1 ≤ (1 : Byte).toNat ∧ (1 : Byte).toNat ≤ 10) ∧ 1 ≤ (10 : Byte).toNat ∧ (10 : Byte).toNat ≤ 10 :=
  by decide

theorem witness_GmulIsAFieldMultiplication :
    (0xFF : Byte) ≠ 0 :=
  by decide

theorem witness_SubstitutionTablesAreInverse :
    (0 < 16 ∧ 15 < 16) ∧ entry printedS 15 15 = 0x16 ∧ entry printedInvS 15 0 = 0x17 :=
  by decide

theorem witness_RoundConstantsArePowersOfX :
    (1 ≤ 1 ∧ 1 ≤ 9) ∧ 1 ≤ 9 ∧ 9 ≤ 9 :=
  by decide

theorem witness_KeyExpansionFollowsTheRecurrence :
    keyA.length = 16 ∧ (bytes 24 1).length = 24 ∧ (bytes 32 1).length = 32 :=
  by decide +kernel

theorem witness_RoundKeysGroupTheWordsAndOpenWithTheKey :
    (bytes 32 1).length = 32 ∧ 14 ≤ roundsOf ((bytes 32 1).length / 4) :=
  by decide +kernel

theorem witness_KeyExpandLoadsTheKeySlot :
    (edgeState.keyLen.toNat = 16 ∧ InBuf edgeState edgeState.keyAddr 16) ∧
    InBuf { edgeState with keyAddr := 65512 } 65512 24 ∧ InBuf { edgeState with keyAddr := 65504 } 65504 32 :=
  by decide +kernel

theorem witness_StoringSixteenBytesAtDstAddr :
    edgeState.buf.wf ∧ InBuf edgeState edgeState.dstAddr 16 ∧ edgeState.status.keyValid = true ∧
    (10 : BitVec 4).toNat ≤ edgeState.status.nr.toNat :=
  by decide +kernel

theorem witness_StateLoadCopiesSixteenBytes :
    InBuf edgeState edgeState.srcAddr 16 :=
  by decide +kernel

theorem witness_RoundCommandsTransformTheStateRegister :
    edgeState.status.keyValid = true ∧ (10 : BitVec 4).toNat ≤ edgeState.status.nr.toNat ∧
    (0 : BitVec 4).toNat ≤ edgeState.status.nr.toNat :=
  by decide +kernel

theorem witness_ByteAndRowTransformsByCell :
    3 < 4 ∧ 0 < 4 :=
  by decide

theorem witness_MixColumnsMultipliesByTheFixedMatrix :
    3 < 4 ∧ 0 < 4 :=
  by decide

theorem witness_CipherAppliesItsRoundsInOrder :
    1 ≤ 14 ∧ (1 ≤ 1 ∧ 1 ≤ 14 - 1) ∧ 1 ≤ 13 ∧ 13 ≤ 14 - 1 :=
  by decide

theorem witness_BlockCommandsDeliverTheCipherBlock :
    edgeState.buf.wf ∧ edgeState.status.keyValid = true ∧ edgeState.srcLen = 16 ∧
    InBuf edgeState edgeState.srcAddr 16 ∧ InBuf edgeState edgeState.dstAddr 16 :=
  by decide +kernel

theorem witness_UnpadAcceptsExactlyPaddedData :
    (bytes 16 5).length = 16 ∧ 1 ≤ 16 ∧ 16 ≤ 16 :=
  by decide +kernel

/-- Two bytes, the padded sequence of one: an input for PAD and UNPAD at the boundary of BUF. -/
def unpadEdge : State :=
  { State.reset.memWrite 65534 [0x07, 0x01] with srcAddr := 65534, srcLen := 2, dstAddr := 65520 }

theorem witness_PaddingCommandsDeliverTheirData :
    unpadEdge.buf.wf ∧ InBuf unpadEdge unpadEdge.srcAddr unpadEdge.srcLen.toNat ∧
    InBuf unpadEdge unpadEdge.dstAddr (unpadEdge.srcLen.toNat + (16 - unpadEdge.srcLen.toNat % 16)) ∧
    InBuf unpadEdge unpadEdge.dstAddr unpadEdge.srcLen.toNat ∧ input unpadEdge = [0x07] ++ rep 1 :=
  by decide +kernel

theorem witness_PaddedEncryptionChainsItsBlocks :
    let s := { edgeState with dstAddr := 65504 }
    s.buf.wf ∧ ModeReady s ∧ InBuf s s.dstAddr (s.srcLen.toNat + (16 - s.srcLen.toNat % 16)) :=
  by decide +kernel

/-- The block that CBC and PCBC encryption under KA with IV0 make of no data. -/
def emptyCipher : State := modeState (bytes 16 0x000102030405060708090a0b0c0d0e0f) (bytes 16 0xc84af0b613435d5d9182801a9bd9320b)

theorem witness_PaddedDecryptionRecoversItsBlocks :
    emptyCipher.buf.wf ∧ ModeReady emptyCipher ∧ InBuf emptyCipher emptyCipher.dstAddr emptyCipher.srcLen.toNat ∧
    emptyCipher.srcLen.toNat ≠ 0 ∧ emptyCipher.srcLen.toNat % 16 = 0 ∧ (rep 16).length = emptyCipher.srcLen.toNat ∧
    rep 16 = [] ++ rep 16 ∧
    blk (rep 16) 0 = ((emptyCipher.decrypt (blockOf (blk (input emptyCipher) 0))).xor (ivBlock emptyCipher)).toBytes ∧
    blk (rep 16) 0 =
      (((emptyCipher.decrypt (blockOf (blk (input emptyCipher) 0))).xor (ivBlock emptyCipher)).xor .zero).toBytes :=
  by decide +kernel

theorem witness_CfbFeedsBackTheCiphertext :
    edgeState.buf.wf ∧ ModeReady edgeState ∧ InBuf edgeState edgeState.dstAddr edgeState.srcLen.toNat :=
  by decide +kernel

theorem witness_OfbChainsItsKeystream :
    edgeState.buf.wf ∧ ModeReady edgeState ∧ InBuf edgeState edgeState.dstAddr edgeState.srcLen.toNat :=
  by decide +kernel

theorem witness_CtrCountsItsNonces :
    edgeState.buf.wf ∧ ModeReady edgeState ∧ InBuf edgeState edgeState.dstAddr edgeState.srcLen.toNat :=
  by decide +kernel

/-- What a completed encryption gives a decryption to start from: the premises of the round trip for the mode `m`. -/
def roundTripPremises (m : ChainMode) : Bool :=
  let s := modeState (bytes 16 0x000102030405060708090a0b0c0d0e0f) (bytes 5 0x68656c6c6f)
  match nextOf (exec (encMode m) s) with
  | some t => s.cfg.wf && decide s.buf.wf && !t.status.err && decide (0x400 + t.outLen.toNat ≤ s.cfg.bufSize) &&
      decide (ivBlock t = ivBlock s)
  | none => false

theorem witness_EveryModeRoundTrips :
    [ChainMode.cbc, .pcbc, .cfb, .ofb, .ctr].all roundTripPremises = true :=
  by decide +kernel

/-- The CBC ciphertext block of the padded `d` under KA with IV0. -/
def cbcBlock (d : List Byte) : Block :=
  (modeState (bytes 16 0x000102030405060708090a0b0c0d0e0f) []).encrypt ((blockOf (padData d)).xor (block 0x000102030405060708090a0b0c0d0e0f))

/-- DEC_CBC of one block with IV0 completes. -/
def decCbcCompletes (c : Block) : Bool :=
  let s := modeState (bytes 16 0x000102030405060708090a0b0c0d0e0f) c.toBytes
  decide (input s = c.toBytes ∧ s.buf.wf) && s.cfg.wf &&
    (nextOf (exec .decCbc s)).any fun t => !t.status.err

theorem witness_CbcTamperingNeverGivesTheOriginal :
    decCbcCompletes (cbcBlock [0x01]) = true ∧ decCbcCompletes (cbcBlock [0x02, 0x03]) = true ∧
    cbcBlock [0x01] ≠ cbcBlock [0x02, 0x03] :=
  by decide +kernel

theorem witness_TheFirstErrorInPriorityOrderIsReported :
    Cause .encBlock State.reset .keyNotLoaded ∧ Cause (.rkStore 11) edgeState .badOperand ∧
    Cause (.gfRcon 0) State.reset .badOperand ∧ Cause (.gfRcon 11) State.reset .badOperand ∧
    Cause .keyExpand State.reset .configKeyLength ∧ Cause .encCtr (withKey keyA) .configIvLength ∧
    Cause .decBlock (withKey keyA) .configDataLength ∧ Cause .decCbc { edgeState with srcLen := 17 } .configDataLength ∧
    Cause .stateLoad { State.reset with srcAddr := 65521 } .addressRange :=
  by
  refine ⟨?_, ?_, ?_, ?_, ?_, ?_, ?_, ?_, ?_⟩ <;> simp only [Cause] <;> decide +kernel

/-- A cause of PADDING_ERROR: UNPAD of no bytes; and the eight earlier codes have none there. -/
theorem witness_TheFirstErrorInPriorityOrderIsReported_padding :
    Cause .unpad State.reset .paddingError ∧ ∀ c, priority c < priority .paddingError → ¬ Cause .unpad State.reset c := by
  refine ⟨⟨.inl rfl, ?_⟩, fun c hc => ?_⟩
  · rintro ⟨y, k, h1, -, h⟩
    have := congrArg List.length h
    simp [recovered, input, rep, State.reset] at this
    omega
  · cases c <;> first | (simp [priority] at hc; done) | (simp only [Cause]; decide +kernel)

/-- An illegal word, a command with no cause of any error, and a command whose first cause is KEY_NOT_LOADED. -/
theorem witness_TheFirstErrorInPriorityOrderIsReported_clauses :
    decode 0x60 = .illegal .unassignedOpcode ∧ (∀ c, ¬ Cause (.gfRcon 10) State.reset c) ∧
    ∀ c, priority c < priority .keyNotLoaded → ¬ Cause .encBlock State.reset c := by
  refine ⟨by decide, fun c => ?_, fun c hc => ?_⟩
  · cases c <;> first | (simp [Cause]; done) | (simp only [Cause]; decide +kernel)
  · cases c <;> first | (simp [priority] at hc; done) | (simp only [Cause]; decide +kernel)

theorem witness_ErrCmdHoldsTheWholeFailingWord :
    (∃ t, issueCommand 0x60 State.reset = .next t) ∧ (∃ t, issueCommand 0 State.reset = .next t) ∧
    edgeState.status.busy = false ∧ ∃ t, hostAction (.reset ⟨.zero, Vector.replicate 15 .zero, []⟩) edgeState = .next t :=
  ⟨⟨_, rfl⟩, ⟨_, rfl⟩, rfl, _, rfl⟩

theorem witness_NoCommandWritesTheHostsRegisters :
    ∃ t, exec .encCtr edgeState = .next t :=
  ⟨_, rfl⟩

theorem witness_CommandsUpdateTheFlags :
    ∃ t, exec .encCtr edgeState = .next t :=
  ⟨_, rfl⟩

theorem witness_EachSpecialRegisterHasItsOwnCommands :
    (∃ t, exec .stateStore edgeState = .next t) ∧ Instr.stateStore ≠ .keyExpand ∧ Instr.stateStore.isData = false ∧
    writesGfResult .stateStore = false ∧ writesState .stateStore = false :=
  ⟨⟨_, rfl⟩, by decide⟩

theorem witness_CommandsLeaveTheRestOfBuf :
    edgeState.cfg.wf = true ∧ (∃ t, exec .nop edgeState = .next t) ∧ (∃ t, exec (.rkStore 10) edgeState = .next t) ∧
    (∃ t, exec .encCfb edgeState = .next t) ∧ Outside 65520 16 65519 ∧ Outside 16 16 32 :=
  ⟨by decide, ⟨_, rfl⟩, ⟨_, rfl⟩, ⟨_, rfl⟩, by decide⟩

theorem witness_StepRunsTheDecodedCommand :
    (hostDoes [.regWrite 0x0 0x52]).status.busy = false ∧
    (hostDoes [.regWrite 0x0 0x52]).pending = .regWrite 0x0 0x52 :: [] ∧ decode 0x52 = .command .ctrInc ∧
    decodeTableWord 32 0x52 = some .ctrInc :=
  by decide

theorem witness_StepOfAnIllegalWordOnlyReports :
    (hostDoes [.regWrite 0x0 0x60]).status.busy = false ∧
    (hostDoes [.regWrite 0x0 0x60]).pending = .regWrite 0x0 0x60 :: [] ∧ decode 0x60 = .illegal .unassignedOpcode :=
  by decide

theorem witness_HostWritesReachOnlyReadWriteRegisters :
    let s := { State.reset with pending := [.regWrite 0x8 5] }
    s.status.busy = false ∧ s.pending = .regWrite 0x8 5 :: [] ∧ (0x8 : BitVec 4) ≠ 0x0 ∧
    2 ≤ (0x8 : BitVec 4).toNat ∧ (0x8 : BitVec 4).toNat ≤ 8 :=
  by decide

theorem witness_HostReadsReturnTheRegister :
    let s := { State.reset with pending := [.regRead 0xF] }
    s.status.busy = false ∧ s.pending = .regRead 0xF :: [] :=
  by decide

theorem witness_HostReachesTheBytesOfBuf :
    let w := hostDoes [.bufWrite 65535 7]
    let r := hostDoes [.bufRead 65535]
    let o := hostDoes [.bufRead 65536]
    (w.status.busy = false ∧ w.buf.wf ∧ w.pending = .bufWrite 65535 7 :: [] ∧ 65535 < w.cfg.bufSize) ∧
    (r.status.busy = false ∧ r.buf.wf ∧ r.pending = .bufRead 65535 :: [] ∧ 65535 < r.cfg.bufSize) ∧
    (o.status.busy = false ∧ o.buf.wf ∧ o.pending = .bufRead 65536 :: [] ∧ o.cfg.bufSize ≤ 65536) :=
  by decide

theorem witness_ResetClearsTheRegistersAndNothingElseIsFixed :
    let d : ResetDraw := ⟨block 1, Vector.replicate 15 (block 2), [(0, 3)]⟩
    (hostDoes [.reset d]).pending = .reset d :: [] ∧
    let s := { hostDoes [.reset d] with status := { State.reset.status with busy := true } }
    s.pending = .reset d :: [] ∧ s.status.busy = true :=
  by decide

theorem witness_IdleStepsChangeNothingAndBusyOnesRefuse :
    let s := { State.reset with status := { State.reset.status with busy := true }, pending := [.regWrite 0x2 1] }
    State.reset.pending = [] ∧ s.status.busy = true ∧ s.pending = .regWrite 0x2 1 :: [] ∧
    (HostAction.regWrite 0x2 1 ≠ .regRead 0x1) ∧ (∀ d, HostAction.regWrite 0x2 1 ≠ .reset d) ∧
    { s with pending := [.regRead 0x1] }.pending = .regRead 0x1 :: [] :=
  ⟨rfl, rfl, rfl, by decide, (fun _ h => by cases h), rfl⟩

theorem witness_reset_inv : State.reset.Inv where
  cfg := by decide
  status := ⟨rfl, by decide, by decide, by decide, by decide⟩
  bufForm := by decide
  bufRange := by decide
  gfResult := by decide
  outLen := by decide

/-- `edgeState` with the word `w` about to be written to CMD. -/
def edgeCommand (w : Word) : State := { edgeState with pending := [.regWrite 0x0 w] }

theorem edgeState_inv : edgeState.Inv where
  cfg := by decide
  status := ⟨rfl, by decide, by decide, by decide, by decide⟩
  bufForm := by decide
  bufRange := by decide
  gfResult := by decide
  outLen := by decide

theorem edgeCommand_inv (w : Word) : (edgeCommand w).Inv :=
  ⟨edgeState_inv.cfg, edgeState_inv.status, edgeState_inv.bufForm, edgeState_inv.bufRange, edgeState_inv.gfResult,
    edgeState_inv.outLen⟩

/-- The premises hold of steps that store in BUF (ENC_BLOCK), raise an error (an illegal word) and load a key. -/
theorem witness_EveryStepKeepsTheInvariant :
    ((edgeCommand 0x40).Inv ∧
      (nextOf (step (edgeCommand 0x40))).any (fun t => decide (t.outLen = 16 ∧ t.buf ≠ edgeState.buf)) = true) ∧
    ((edgeCommand 0x60).Inv ∧ (nextOf (step (edgeCommand 0x60))).any (fun t => t.status.err) = true) ∧
    ((edgeCommand 0x20).Inv ∧
      (nextOf (step (edgeCommand 0x20))).any (fun t => decide (t.rk ≠ edgeState.rk)) = true) :=
  ⟨⟨edgeCommand_inv _, by decide +kernel⟩, ⟨edgeCommand_inv _, by decide +kernel⟩, edgeCommand_inv _, by decide +kernel⟩

/-- A state with a key in the slot, and a step of it that loads another key. -/
theorem witness_EveryStepKeepsAWholeKeyInTheSlot :
    (edgeCommand 0x20).HoldsKey ∧ (edgeCommand 0x20).status.keyValid = true ∧
    ∃ t, step (edgeCommand 0x20) = .next t := by
  refine ⟨fun _ => ⟨keyA, by decide +kernel, by decide +kernel, fun j hj => ?_⟩, rfl, _, rfl⟩
  have : j < 11 := Nat.lt_succ_of_le hj
  clear hj
  revert j
  decide +kernel

theorem witness_OnlyResetClearsKeyValidAndErrSeen :
    let s := { edgeState with status := edgeState.status.errored .badOperand, pending := [.regWrite 0x0 0] }
    s.pending = .regWrite 0x0 0 :: [] ∧ (∀ d, HostAction.regWrite 0x0 0 ≠ .reset d) ∧ (∃ t, step s = .next t) ∧
    s.status.errSeen = true ∧ s.status.keyValid = true :=
  ⟨rfl, (fun _ h => by cases h), ⟨_, rfl⟩, rfl, rfl⟩

theorem witness_NoActionOfTheInterfaceStopsTheBlock :
    let s := { State.reset with pending := [.bufWrite 65535 7, .bufRead 65535, .regWrite 0x0 0x40, .regWrite 0x0 0x60] }
    s.Inv ∧ ∀ a ∈ s.pending, a.wf s.cfg = true :=
  ⟨⟨by decide, ⟨rfl, by decide, by decide, by decide, by decide⟩, by decide, by decide, by decide, by decide⟩, by decide⟩

/-- The key of `n` bytes 000102.. at 0x10, the plaintext of R247 at 0x40, the output at the end of BUF. -/
def knownAnswerState (n k : Nat) : State :=
  { (State.reset.memWrite 0x10 (bytes n k)).memWrite 0x40 (bytes 16 0x00112233445566778899aabbccddeeff) with
    keyAddr := 0x10, keyLen := BitVec.ofNat 32 n, srcAddr := 0x40, srcLen := 16, dstAddr := 65520 }

/-- The premises of the known answers, for a key of `n` bytes. -/
def knownAnswerPremises (n k : Nat) : Bool :=
  let s := knownAnswerState n k
  decide (s.buf.wf ∧ s.keyLen.toNat = n ∧ InBuf s s.keyAddr n ∧ keyInput s = hexBytes n k ∧ s.srcLen = 16 ∧
    InBuf s s.srcAddr 16 ∧ InBuf s s.dstAddr 16 ∧ input s = hexBytes 16 0x00112233445566778899aabbccddeeff)

theorem witness_KnownAnswersOfTheBlockCipher :
    knownAnswerPremises 16 0x000102030405060708090a0b0c0d0e0f = true ∧
    knownAnswerPremises 24 0x000102030405060708090a0b0c0d0e0f1011121314151617 = true ∧
    knownAnswerPremises 32 0x000102030405060708090a0b0c0d0e0f101112131415161718191a1b1c1d1e1f = true := by
  decide +kernel

end Sys2Proof.Tests
end

section
/-!
ERR_CMD (10_state.md R49). The fact it turns on is one about the encoding: a word that decodes to a command is the word of
that command, so what an erring command writes is the word that the host wrote.
-/

namespace Sys2Proof

/-- The fields `f` with every field but OPC and the used ones cleared (30_encoding.md R101 step 2). -/
def Fields.used (u : FieldUse) (f : Fields) : Fields :=
  match u with
  | .none => .plain f.opc
  | .a => { Fields.plain f.opc with a := f.a }
  | .ab => { Fields.plain f.opc with a := f.a, b := f.b }
  | .rk => { Fields.plain f.opc with rk := f.rk }
  | .mode => { Fields.plain f.opc with mode := f.mode }

/-- The check of 30_encoding.md R101 step 2 passes exactly the fields in which nothing is left to clear. -/
theorem Fields.reservedClear_iff_used {u : FieldUse} {f : Fields} : f.reservedClear u = true ↔ f = f.used u := by
  cases f
  cases u <;> simp [Fields.reservedClear, Fields.used, Fields.plain, and_assoc]

/-- ENC_MODE's fields carry the MODE that was decoded (30_encoding.md R104). -/
theorem fields_of_decodeEncMode {m : BitVec 3} {i : Instr} (h : decodeEncMode m = .command i) :
    i.fields = { Fields.plain 0x50 with mode := m } := by
  unfold decodeEncMode at h
  split at h <;> cases h <;> rfl

/-- DEC_MODE's fields carry the MODE that was decoded (30_encoding.md R104). -/
theorem fields_of_decodeDecMode {m : BitVec 3} {i : Instr} (h : decodeDecMode m = .command i) :
    i.fields = { Fields.plain 0x51 with mode := m } := by
  unfold decodeDecMode at h
  split at h <;> cases h <;> rfl

/-- Fields that decode to a command are the fields of that command, one case for each opcode (30_encoding.md R101,
R105). -/
theorem Fields.fields_of_decode {f : Fields} {i : Instr} (h : f.decode = .command i) : i.fields = f := by
  unfold Fields.decode at h
  split at h
  case h_26 => cases h
  all_goals
    rename_i hopc
    obtain ⟨hclear, hi⟩ := Fields.checked_eq_command h
    have hused := Fields.reservedClear_iff_used.mp hclear
    simp only [Fields.used, hopc] at hused
  case h_23 => exact (fields_of_decodeEncMode hi).trans hused.symm
  case h_24 => exact (fields_of_decodeDecMode hi).trans hused.symm
  all_goals
    cases hi
    exact hused.symm

/-- A word that decodes to a command is that command's word (30_encoding.md R101, R105). -/
theorem encode_of_decode {v : Word} {i : Instr} (h : decode v = .command i) : encode i = v := by
  rw [encode, Fields.fields_of_decode h, Fields.toWord_ofWord]

end Sys2Proof

namespace Sys2Proof.Machine

/-- No write of a completing command is to ERR_CMD (10_state.md R49). -/
theorem Commit.errCmd_eq {s u : State} {i : Instr} (h : Commit s i u) : u.errCmd = s.errCmd := by
  cases h <;> rfl

/-- ERR_CMD after a command: its own word if it raised an error, and otherwise what it was (10_state.md R49). -/
theorem exec_errCmd {i : Instr} {s t : State} (h : exec i s = .next t) :
    t.errCmd = if t.status.err = true then encode i else s.errCmd := by
  obtain ⟨c, -, rfl⟩ | ⟨u, hu, rfl⟩ := exec_cases h
  · simp
  · simp [hu.errCmd_eq]

/-- ERR_CMD after a word was issued: that word if it raised an error, legal or not (10_state.md R49). -/
theorem issueCommand_errCmd {v : Word} {s t : State} (h : issueCommand v s = .next t) :
    t.errCmd = if t.status.err = true then v else s.errCmd := by
  obtain ⟨i, hi, hexec⟩ | ⟨-, rfl⟩ := issueCommand_cases h
  · rw [exec_errCmd hexec, encode_of_decode hi]
  · simp

/-- A host write to ERR_CMD has no effect (10_state.md R49, R51). -/
theorem hostAction_regWrite_regErrCmd {s : State} (h : s.status.busy = false) (v : Word) :
    hostAction (.regWrite regErrCmd v) s = .next s := by
  simp [hostAction, h, idleAction, regErrCmd, regCmd, regStore]

/-- The reset event is taken whatever BUSY is (70_reset_and_hazards.md R370). -/
theorem hostAction_reset (d : ResetDraw) (s : State) : hostAction (.reset d) s = .next (resetBlock d s) := by
  cases h : s.status.busy <;> simp [hostAction, h, idleAction, busyAction]

/-- Settles O35: with `encode_of_decode`, the word that an erring command encodes to is the one that was issued. -/
theorem errCmdHoldsTheWholeFailingWord : Obligations.ErrCmdHoldsTheWholeFailingWord := by
  refine ⟨fun v s t h => issueCommand_errCmd h, fun v s => ⟨rfl, fun hbusy => hostAction_regWrite_regErrCmd hbusy v⟩,
    rfl, fun d s t h => ?_⟩
  rw [hostAction_reset] at h
  cases h
  rfl

end Sys2Proof.Machine
end

section
/-!
The words of the key expansion (41_key_schedule.md R171 to R175). The fact it turns on: a word once appended keeps its
value, so the recurrence that `nextKeyWord` computes from the words so far holds in the finished list.
-/

namespace Sys2Proof.Machine

/-- The four bytes of a column lie in the sequence where the column was read (10_state.md R36). -/
theorem columnAt_toBytes {l : List Byte} {i : Nat} (h : i + 4 ≤ l.length) :
    (columnAt l i).toBytes = (l.drop i).take 4 := by
  refine List.ext_getElem (by simp [Column.toBytes]; omega) fun k hk _ => ?_
  match k, hk with
  | 0, _ | 1, _ | 2, _ | 3, _ => simp (disch := omega) [Column.toBytes, columnAt]

@[simp] theorem keyWords_length (key : List Byte) : (keyWords key).length = key.length / 4 := by simp [keyWords]

/-- `w[i] = key[4i .. 4i + 4)` (41_key_schedule.md R171). -/
theorem keyWords_getD_toBytes {key : List Byte} {i : Nat} (h : i < key.length / 4) :
    ((keyWords key).getD i .zero).toBytes = (key.drop (4 * i)).take 4 := by
  rw [← columnAt_toBytes (by omega)]
  simp [keyWords, h]

@[simp] theorem extendKeyWords_length (nk n : Nat) (w : List Column) :
    (extendKeyWords nk n w).length = w.length + n := by
  induction n generalizing w with
  | zero => rfl
  | succ n ih =>
    rw [extendKeyWords, ih, List.length_append, List.length_singleton]
    omega

/-- Extending keeps the words that are there (41_key_schedule.md R175, "append"). -/
theorem extendKeyWords_getD {i : Nat} {w : List Column} (h : i < w.length) (nk n : Nat) :
    (extendKeyWords nk n w).getD i .zero = w.getD i .zero := by
  induction n generalizing w with
  | zero => rfl
  | succ n ih => rw [extendKeyWords, ih (by simp; omega), List.getD_append _ _ _ _ h]

/-- Each word that extending appends is made of the word before it and the word `nk` positions before it, as they stand
in the result (41_key_schedule.md R172, R175). -/
theorem extendKeyWords_recurrence {nk n i : Nat} {w : List Column} (hnk : 0 < nk) (hw : nk ≤ w.length)
    (hi : w.length ≤ i) (hin : i < w.length + n) :
    (extendKeyWords nk n w).getD i .zero =
      (keyTemp nk i ((extendKeyWords nk n w).getD (i - 1) .zero)).xor
        ((extendKeyWords nk n w).getD (i - nk) .zero) := by
  induction n generalizing w with
  | zero => omega
  | succ n ih =>
    obtain rfl | hlt := hi.eq_or_lt
    · have hold (j : Nat) (hj : j < w.length) : (extendKeyWords nk (n + 1) w).getD j .zero = w.getD j .zero :=
        extendKeyWords_getD hj nk (n + 1)
      have hnew : (extendKeyWords nk (n + 1) w).getD w.length .zero = nextKeyWord nk w := by
        rw [extendKeyWords, extendKeyWords_getD (by simp)]
        simp
      rw [hnew, hold _ (by omega), hold _ (by omega), nextKeyWord]
    · exact ih (by simp; omega) (by simp; omega) (by simp; omega)

/-- The rotate-substitute event: rotated, substituted, and Rcon added to the first byte (41_key_schedule.md R173). -/
theorem keyTemp_of_mod_eq_zero {nk i : Nat} (h : i % nk = 0) (w : Column) :
    keyTemp nk i w = ⟨sbox w.r1 ^^^ rcon (i / nk), sbox w.r2, sbox w.r3, sbox w.r0⟩ := by
  simp [keyTemp, h, Column.xor, subWord, rotWord]

/-- The extra substitution of 256-bit keys (41_key_schedule.md R174). -/
theorem keyTemp_of_mod_eq_four {nk i : Nat} (hnk : nk = 8) (h : i % 8 = 4) (w : Column) :
    keyTemp nk i w = subWord w := by
  simp [keyTemp, hnk, h]

/-- Any other word is copied (41_key_schedule.md R172). -/
theorem keyTemp_of_copied {nk i : Nat} (h0 : i % nk ≠ 0) (h4 : ¬ (nk = 8 ∧ i % 8 = 4)) (w : Column) :
    keyTemp nk i w = w := by
  rw [keyTemp, if_neg h0, if_neg]
  rintro ⟨rfl, h⟩
  exact h4 ⟨rfl, h⟩

/-- The sizes of a legal key, its Nk and its Nr (00_scope.md R9, R10). -/
theorem keySizes {key : List Byte} (h : key.length = 16 ∨ key.length = 24 ∨ key.length = 32) :
    4 * (key.length / 4) = key.length ∧
    (key.length / 4, roundsOf (key.length / 4)) ∈ [(4, 10), (6, 12), (8, 14)] := by
  obtain h | h | h := h <;> rw [h] <;> decide

/-- A legal key has at least one word, and fewer than its expansion (41_key_schedule.md R170). -/
theorem keyWordCount_bounds {key : List Byte} (h : key.length = 16 ∨ key.length = 24 ∨ key.length = 32) :
    0 < key.length / 4 ∧ key.length / 4 < 4 * (roundsOf (key.length / 4) + 1) := by
  obtain h | h | h := h <;> rw [h] <;> decide

/-- The expansion has `4(Nr + 1)` words (41_key_schedule.md R170). -/
theorem expandKey_length {key : List Byte} (h : key.length = 16 ∨ key.length = 24 ∨ key.length = 32) :
    (expandKey key).length = 4 * (roundsOf (key.length / 4) + 1) := by
  obtain ⟨-, hlt⟩ := keyWordCount_bounds h
  rw [expandKey, extendKeyWords_length, keyWords_length]
  omega

/-- The expansion opens with the words of the key (41_key_schedule.md R171). -/
theorem expandKey_getD_toBytes {key : List Byte} {i : Nat} (h : i < key.length / 4) :
    ((expandKey key).getD i .zero).toBytes = (key.drop (4 * i)).take 4 := by
  rw [expandKey, extendKeyWords_getD (by simpa using h), keyWords_getD_toBytes h]

/-- Every later word of the expansion satisfies the recurrence (41_key_schedule.md R172, R175). -/
theorem expandKey_recurrence {key : List Byte} {i : Nat}
    (h : key.length = 16 ∨ key.length = 24 ∨ key.length = 32) (hi : key.length / 4 ≤ i)
    (hlt : i < 4 * (roundsOf (key.length / 4) + 1)) :
    (expandKey key).getD i .zero = (keyTemp (key.length / 4) i ((expandKey key).getD (i - 1) .zero)).xor
      ((expandKey key).getD (i - key.length / 4) .zero) := by
  obtain ⟨hpos, -⟩ := keyWordCount_bounds h
  exact extendKeyWords_recurrence hpos (by simp) (by simpa using hi) (by simp; omega)

/-- Settles O10: the recurrence holds in the finished list, with `keyTemp` as `temp`. -/
theorem keyExpansionFollowsTheRecurrence : Obligations.KeyExpansionFollowsTheRecurrence := by
  intro key hkey
  obtain ⟨hnk, hsizes⟩ := keySizes hkey
  refine ⟨key.length / 4, roundsOf (key.length / 4), hnk, hsizes, expandKey_length hkey,
    fun i hi => expandKey_getD_toBytes hi, fun i hi hlt => ⟨_, expandKey_recurrence hkey hi hlt, ?_⟩⟩
  exact ⟨fun h0 => keyTemp_of_mod_eq_zero h0 _, fun ⟨h8, h4⟩ => keyTemp_of_mod_eq_four h8 h4 _,
    fun ⟨h0, h4⟩ => keyTemp_of_copied h0 h4 _⟩

end Sys2Proof.Machine
end

section
/-!
The round transforms cell by cell (42_round_transform.md R201 to R204, R208). What a transform does to a cell is read off
the byte sequence of the block, where cell `(r, c)` is byte `r + 4c`; InvShiftRows follows from ShiftRows, which it undoes.
-/

namespace Sys2Proof.Machine

open Sys2Proof.Claim

@[simp] theorem mapBytes_toBytes (f : Byte → Byte) (b : Block) : (mapBytes f b).toBytes = b.toBytes.map f := rfl

@[simp] theorem addRoundKey_toBytes (b k : Block) :
    (addRoundKey b k).toBytes = List.zipWith (· ^^^ ·) b.toBytes k.toBytes := rfl

@[simp] theorem shiftRows_invShiftRows (b : Block) : shiftRows (invShiftRows b) = b := rfl

section
variable {r c : Nat} (hr : r < 4) (hc : c < 4)
include hr hc

/-- Every cell of the matrix view is one of the sixteen bytes (10_state.md R36). -/
theorem cell_eq_getElem (b : Block) : cell b r c = b.toBytes[r + 4 * c]'(by rw [Block.toBytes_length]; omega) := by
  rw [cell, List.getD_eq_getElem]

theorem cell_mapBytes (f : Byte → Byte) (b : Block) : cell (mapBytes f b) r c = f (cell b r c) := by
  simp [cell_eq_getElem hr hc]

theorem cell_addRoundKey (b k : Block) : cell (addRoundKey b k) r c = cell b r c ^^^ cell k r c := by
  simp [cell_eq_getElem hr hc]

/-- Row `r` is rotated by `r` columns, toward column 0 (42_round_transform.md R203). -/
theorem cell_shiftRows (b : Block) : cell (shiftRows b) r c = cell b r ((c + r) % 4) := by
  interval_cases r <;> interval_cases c <;> rfl

/-- Row `r` is rotated by `r` columns, away from column 0: ShiftRows takes the cell back (42_round_transform.md R204). -/
theorem cell_invShiftRows (b : Block) : cell (invShiftRows b) r c = cell b r ((c + 4 - r) % 4) := by
  have hcol : ((c + 4 - r) % 4 + r) % 4 = c := by omega
  calc cell (invShiftRows b) r c
      = cell (invShiftRows b) r (((c + 4 - r) % 4 + r) % 4) := by rw [hcol]
    _ = cell (shiftRows (invShiftRows b)) r ((c + 4 - r) % 4) :=
        (cell_shiftRows hr (Nat.mod_lt _ (by decide)) _).symm
    _ = cell b r ((c + 4 - r) % 4) := by rw [shiftRows_invShiftRows]

end

/-- Settles O16: each transform by its own lemma on cells. -/
theorem byteAndRowTransformsByCell : Obligations.ByteAndRowTransformsByCell := by
  intro b k r c hr hc
  exact ⟨cell_mapBytes hr hc sbox b, cell_mapBytes hr hc invSbox b, cell_shiftRows hr hc b,
    cell_invShiftRows hr hc b, cell_addRoundKey hr hc b k⟩

end Sys2Proof.Machine
end

section
/-!
The working state of the block cipher after each of its rounds (43_block_cipher.md R241, R243): the loops of E and D cut
off at a round, so that a round is one more step of the same loop.
-/

namespace Sys2Proof.Machine

/-- The working state of E after round `i` (43_block_cipher.md R241). -/
def encWork (rk : RoundKeys) (b : Block) (i : Nat) : Block :=
  (List.range' 1 i).foldl (encRound rk) (addRoundKey b (roundKey rk 0))

/-- The working state that round `i` of D starts from: rounds `nr - 1` down to `i + 1` are done (43_block_cipher.md
R243). -/
def decWork (rk : RoundKeys) (nr : Nat) (b : Block) (i : Nat) : Block :=
  (List.range' (i + 1) (nr - 1 - i)).reverse.foldl (decRound rk)
    (invSubBytes (invShiftRows (addRoundKey b (roundKey rk nr))))

section
variable (rk : RoundKeys) (nr : Nat) (b : Block)

theorem encWork_zero : encWork rk b 0 = addRoundKey b (roundKey rk 0) := rfl

theorem encWork_succ (i : Nat) : encWork rk b (i + 1) = encRound rk (encWork rk b i) (i + 1) := by
  rw [encWork, List.range'_1_concat, List.foldl_append, Nat.add_comm 1 i]
  rfl

theorem encryptBlock_eq_encWork :
    encryptBlock rk nr b = addRoundKey (shiftRows (subBytes (encWork rk b (nr - 1)))) (roundKey rk nr) := rfl

theorem decWork_last : decWork rk nr b (nr - 1) = invSubBytes (invShiftRows (addRoundKey b (roundKey rk nr))) := by
  simp [decWork]

theorem decWork_of_succ_le {nr i : Nat} (h : i + 1 ≤ nr - 1) :
    decWork rk nr b i = decRound rk (decWork rk nr b (i + 1)) (i + 1) := by
  have hcount : nr - 1 - i = nr - 1 - (i + 1) + 1 := by omega
  rw [decWork, hcount, List.range'_succ, List.reverse_cons, List.foldl_append]
  rfl

theorem decryptBlock_eq_decWork : decryptBlock rk nr b = addRoundKey (decWork rk nr b 0) (roundKey rk 0) := rfl

end

/-- Settles O19: `encWork` and `decWork` are the working states, and each round is one step of their loops. -/
theorem cipherAppliesItsRoundsInOrder : Obligations.CipherAppliesItsRoundsInOrder := by
  intro rk nr b _
  refine ⟨⟨encWork rk b, encWork_zero rk b, fun i h1 _ => ?_, encryptBlock_eq_encWork rk nr b⟩,
    decWork rk nr b, decWork_last rk nr b, fun i h1 hi => ?_, decryptBlock_eq_decWork rk nr b⟩
  all_goals obtain ⟨i, rfl⟩ := Nat.exists_eq_add_of_le' h1
  · exact encWork_succ rk b i
  · exact decWork_of_succ_le rk b hi

end Sys2Proof.Machine
end

section
/-!
The known answers of the block cipher (43_block_cipher.md R247). The fact they turn on: KEY_EXPAND replaces every round
key that ENC_BLOCK reads, so the ciphertext depends on the key and the plaintext alone, and each vector is one closed
evaluation.
-/

namespace Sys2Proof.Machine

open Sys2Proof.Claim

/-- E under a key alone, with the entries of the store above its schedule at zero. -/
def encryptUnder (key : List Byte) (b : Block) : Block :=
  encryptBlock (storeRoundKeys (keySchedule key) (Vector.replicate 15 .zero)) (roundsOf (key.length / 4)) b

@[simp] theorem keySchedule_length (key : List Byte) :
    (keySchedule key).length = roundsOf (key.length / 4) + 1 := by
  simp [keySchedule]

/-- No key size has more than 14 rounds (00_scope.md R10). -/
theorem roundsOf_le (nk : Nat) : roundsOf nk ≤ 14 := by
  unfold roundsOf
  split_ifs <;> decide

/-- The round keys that E reads do not depend on what the store held before (41_key_schedule.md R180). -/
theorem roundKey_storeRoundKeys_keySchedule (key : List Byte) (rk rk' : RoundKeys) {j : Nat}
    (h : j ≤ roundsOf (key.length / 4)) :
    roundKey (storeRoundKeys (keySchedule key) rk) j = roundKey (storeRoundKeys (keySchedule key) rk') j := by
  have hj : j < 15 := by have := roundsOf_le (key.length / 4); omega
  have hlen : j < (keySchedule key).length := by rw [keySchedule_length]; omega
  rw [roundKey_storeRoundKeys _ _ hj, roundKey_storeRoundKeys _ _ hj, List.getD_eq_getElem _ _ hlen,
    List.getD_eq_getElem _ _ hlen]

/-- NR as the key slot holds it after KEY_EXPAND (10_state.md R38). -/
theorem rounds_loadKey (key : List Byte) (s : State) : (s.loadKey key).rounds = roundsOf (key.length / 4) := by
  have := roundsOf_le (key.length / 4)
  rw [State.rounds, State.loadKey_status, Status.keyLoaded_nr, BitVec.toNat_ofNat, Nat.mod_eq_of_lt (by omega)]

/-- E after a key is loaded is E under that key, whatever the slot held before (43_block_cipher.md R240). -/
theorem encrypt_loadKey (key : List Byte) (s : State) (b : Block) :
    (s.loadKey key).encrypt b = encryptUnder key b := by
  rw [State.encrypt, rounds_loadKey, State.loadKey_rk, encryptUnder]
  exact encryptBlock_congr (fun j hj => roundKey_storeRoundKeys_keySchedule key _ _ hj) b

/-- KEY_EXPAND of a legal key in BUF loads it and completes (41_key_schedule.md R180). -/
theorem exec_keyExpand_of_legal {s : State}
    (hlen : s.keyLen.toNat = 16 ∨ s.keyLen.toNat = 24 ∨ s.keyLen.toNat = 32) (hkey : InBuf s s.keyAddr s.keyLen.toNat) :
    exec .keyExpand s = .next (s.loadKey (keyInput s)).complete := by
  have hrange : outOfRange .keyExpand s = false :=
    outOfRange_eq_false.mpr (by simpa [checkedRegions, State.keyRegion] using hkey)
  rw [exec_keyExpand, execKeyExpand, firstError_cons, firstError_cons, badKeyLength_eq_false.mpr hlen, hrange]
  rfl

/-- ENC_BLOCK with a key loaded, a block as its input and both regions in BUF delivers E of the block and completes
(43_block_cipher.md R245). -/
theorem exec_encBlock_of_ready {s : State} (hkey : s.status.keyValid = true) (hlen : s.srcLen.toNat = 16)
    (hsrc : InBuf s s.srcAddr 16) (hdst : InBuf s s.dstAddr 16) :
    exec .encBlock s = .next (s.commitOutput (s.encrypt s.srcBlock).toBytes).complete := by
  have hrange : outOfRange .encBlock s = false :=
    outOfRange_eq_false.mpr (by simpa [checkedRegions, State.srcRegion, State.dstRegion] using ⟨hsrc, hdst⟩)
  rw [exec_encBlock, execEncBlock, blockErrors, firstError_cons, firstError_cons, firstError_cons,
    noKey_eq_false.mpr hkey, badBlockLength_eq_false.mpr hlen, hrange]
  rfl

/-- The output of a data command reads back at DST_ADDR (45_modes.md R284). -/
theorem memRead_commitOutput {s : State} (h : s.buf.wf) (out : List Byte) :
    (s.commitOutput out).memRead s.dstAddr.toNat out.length = out :=
  State.memRead_memWrite h s.dstAddr.toNat out

/-- KEY_EXPAND and then ENC_BLOCK leave E under the key of the input block at DST_ADDR (41_key_schedule.md R180,
43_block_cipher.md R245). -/
theorem keyExpand_encBlock_delivers {s : State} (hbuf : s.buf.wf)
    (hlen : s.keyLen.toNat = 16 ∨ s.keyLen.toNat = 24 ∨ s.keyLen.toNat = 32)
    (hkey : InBuf s s.keyAddr s.keyLen.toNat) (hsrcLen : s.srcLen.toNat = 16) (hsrc : InBuf s s.srcAddr 16)
    (hdst : InBuf s s.dstAddr 16) :
    ∃ t u, exec .keyExpand s = .next t ∧ exec .encBlock t = .next u ∧ u.status.err = false ∧
      u.memRead s.dstAddr.toNat 16 = (encryptUnder (keyInput s) (blockOf (input s))).toBytes := by
  have hinput : s.srcBlock = blockOf (input s) := by rw [input, hsrcLen]; rfl
  refine ⟨_, _, exec_keyExpand_of_legal hlen hkey, exec_encBlock_of_ready rfl hsrcLen hsrc hdst, rfl, ?_⟩
  rw [← hinput, ← encrypt_loadKey (keyInput s) s]
  exact memRead_commitOutput (s := (s.loadKey (keyInput s)).complete) hbuf _

/-- The vector of R247 (43_block_cipher.md). -/
theorem encryptUnder_key128 :
    (encryptUnder (hexBytes 16 0x000102030405060708090a0b0c0d0e0f)
      (blockOf (hexBytes 16 0x00112233445566778899aabbccddeeff))).toBytes =
      hexBytes 16 0x69c4e0d86a7b0430d8cdb78070b4c55a := by
  decide +kernel

/-- The 192-bit vector of L2.4 (95_test_vectors.md). -/
theorem encryptUnder_key192 :
    (encryptUnder (hexBytes 24 0x000102030405060708090a0b0c0d0e0f1011121314151617)
      (blockOf (hexBytes 16 0x00112233445566778899aabbccddeeff))).toBytes =
      hexBytes 16 0xdda97ca4864cdfe06eaf70a0ec0d7191 := by
  decide +kernel

/-- The 256-bit vector of L2.4 (95_test_vectors.md). -/
theorem encryptUnder_key256 :
    (encryptUnder (hexBytes 32 0x000102030405060708090a0b0c0d0e0f101112131415161718191a1b1c1d1e1f)
      (blockOf (hexBytes 16 0x00112233445566778899aabbccddeeff))).toBytes =
      hexBytes 16 0x8ea2b7ca516745bfeafc49904b496089 := by
  decide +kernel

/-- Settles O53: the two commands deliver `encryptUnder` of the key and the plaintext, which each vector evaluates. -/
theorem knownAnswersOfTheBlockCipher : Obligations.KnownAnswersOfTheBlockCipher := by
  intro s n k c hrow hbuf hkeyLen hkey hkeyInput hsrcLen hsrc hdst hinput
  subst hkeyLen
  have hvector : (s.keyLen.toNat = 16 ∨ s.keyLen.toNat = 24 ∨ s.keyLen.toNat = 32) ∧
      (encryptUnder (keyInput s) (blockOf (input s))).toBytes = hexBytes 16 c := by
    rw [hkeyInput, hinput]
    simp only [List.mem_cons, List.not_mem_nil, or_false, Prod.mk.injEq] at hrow
    obtain ⟨hn, rfl, rfl⟩ | ⟨hn, rfl, rfl⟩ | ⟨hn, rfl, rfl⟩ := hrow <;> rw [hn]
    · exact ⟨by decide, encryptUnder_key128⟩
    · exact ⟨by decide, encryptUnder_key192⟩
    · exact ⟨by decide, encryptUnder_key256⟩
  obtain ⟨hlegal, hcipher⟩ := hvector
  rw [← hcipher]
  exact keyExpand_encBlock_delivers hbuf hlegal hkey (by rw [hsrcLen]; rfl) hsrc hdst

end Sys2Proof.Machine
end

section
/-!
The counter increment (45_modes.md R300). The two facts it turns on: a block's number is its bytes in base 256, and the
scan from the last byte is the carry of adding one in that base; byte lists of one length with one number are equal.
-/

namespace Sys2Proof.Machine

open Sys2Proof.Claim

/-! ### The big-endian number of a byte list -/

@[simp] theorem bigEndian_append_singleton (l : List Byte) (b : Byte) :
    bigEndian (l ++ [b]) = 256 * bigEndian l + b.toNat := by
  simp [bigEndian]

theorem bigEndian_reverse_cons (b : Byte) (l : List Byte) :
    bigEndian (b :: l).reverse = 256 * bigEndian l.reverse + b.toNat := by
  rw [List.reverse_cons, bigEndian_append_singleton]

/-- Mathlib's name for the number of the bytes read from the last one on. -/
theorem bigEndian_reverse (l : List Byte) : bigEndian l.reverse = Nat.ofDigits 256 (l.map BitVec.toNat) := by
  induction l with
  | nil => rfl
  | cons b l ih => rw [bigEndian_reverse_cons, ih, List.map_cons, Nat.ofDigits_cons, Nat.add_comm]

theorem digit_lt_of_mem_map_toNat {l : List Byte} : ∀ d ∈ l.map BitVec.toNat, d < 256 :=
  List.forall_mem_map.mpr fun b _ => b.isLt

theorem bigEndian_reverse_lt (l : List Byte) : bigEndian l.reverse < 256 ^ l.length := by
  rw [bigEndian_reverse]
  simpa only [List.length_map] using Nat.ofDigits_lt_base_pow_length (by decide) (digit_lt_of_mem_map_toNat (l := l))

theorem eq_of_bigEndian_reverse_eq {l m : List Byte} (hlen : l.length = m.length)
    (h : bigEndian l.reverse = bigEndian m.reverse) : l = m := by
  rw [bigEndian_reverse, bigEndian_reverse] at h
  have hdigits := Nat.ofDigits_inj_of_len_eq (by decide) (by simpa only [List.length_map] using hlen)
    digit_lt_of_mem_map_toNat digit_lt_of_mem_map_toNat h
  exact List.map_injective_iff.mpr (fun _ _ => BitVec.eq_of_toNat_eq) hdigits

/-! ### The scan is the carry -/

@[simp] theorem scanIncrement_length (l : List Byte) : (scanIncrement l).length = l.length := by
  induction l with
  | nil => rfl
  | cons b l ih => rw [scanIncrement]; split_ifs <;> simp [ih]

/-- The scan of a list from its last byte on adds one to its number, modulo the numbers of its length (R300). -/
theorem bigEndian_scanIncrement (l : List Byte) :
    bigEndian (scanIncrement l).reverse = (bigEndian l.reverse + 1) % 256 ^ l.length := by
  induction l with
  | nil => rfl
  | cons b l ih =>
    rw [bigEndian_reverse_cons, List.length_cons, Nat.pow_succ', scanIncrement]
    split_ifs with hb
    · calc bigEndian (0x00 :: scanIncrement l).reverse
          = 256 * ((bigEndian l.reverse + 1) % 256 ^ l.length) := by rw [bigEndian_reverse_cons, ih]; rfl
        _ = 256 * (bigEndian l.reverse + 1) % (256 * 256 ^ l.length) := (Nat.mul_mod_mul_left ..).symm
        _ = (256 * bigEndian l.reverse + b.toNat + 1) % (256 * 256 ^ l.length) := by rw [hb]; rfl
    · have hstop : (b + 1).toNat = b.toNat + 1 := by bv_omega
      have hlt := bigEndian_reverse_lt l
      rw [bigEndian_reverse_cons, hstop, Nat.mod_eq_of_lt (by omega), Nat.add_assoc]

/-! ### The number of a block -/

/-- A byte put after a number is the next digit in base 256. -/
theorem toNat_append_byte {w : Nat} (v : BitVec w) (b : Byte) : (v ++ b).toNat = 256 * v.toNat + b.toNat := by
  rw [BitVec.toNat_append, ← Nat.shiftLeft_add_eq_or_of_lt b.isLt, Nat.shiftLeft_eq, Nat.mul_comm]

/-- `numberOf` is the big-endian number of the block's bytes (R300, 20_memory.md R76). -/
theorem numberOf_toNat (b : Block) : (numberOf b).toNat = bigEndian b.toBytes := by
  simp only [numberOf, toNat_append_byte]
  simp [bigEndian, Block.toBytes, Column.toBytes]

/-- The bytes of a number, put one after the other, are the number: each is the slice of it below the one before. -/
theorem numberOf_blockOfNumber (v : BitVec 128) : numberOf (blockOfNumber v) = v := by
  simp (disch := decide) only [numberOf, blockOfNumber, numberByte,
    BitVec.extractLsb'_append_extractLsb'_eq_extractLsb']
  exact BitVec.extractLsb'_eq_self

/-- R300 as arithmetic: one is added to the block's number and the carry out of byte 0 is lost. -/
theorem bigEndian_inc128 (n : Block) : bigEndian (inc128 n).toBytes = (bigEndian n.toBytes + 1) % 2 ^ 128 := by
  rw [← numberOf_toNat, ← numberOf_toNat, inc128, numberOf_blockOfNumber, BitVec.toNat_add]
  rfl

/-- R300 as a scan: both lists have 16 bytes and the same number. -/
theorem inc128_toBytes_eq_scan (n : Block) :
    (inc128 n).toBytes = (scanIncrement n.toBytes.reverse).reverse := by
  have hbase : (2 : Nat) ^ 128 = 256 ^ 16 := Nat.pow_mul 2 8 16
  refine List.reverse_eq_iff.mp (eq_of_bigEndian_reverse_eq (by simp) ?_)
  rw [List.reverse_reverse, bigEndian_inc128, bigEndian_scanIncrement, List.reverse_reverse, List.length_reverse,
    Block.toBytes_length, hbase]

/-- Settles O31: the number of `inc128` is computed through `numberOf`, and the scan has the same number. -/
theorem counterIncrementIsBigEndianWithWrap : Obligations.CounterIncrementIsBigEndianWithWrap :=
  fun n => ⟨bigEndian_inc128 n, inc128_toBytes_eq_scan n⟩

end Sys2Proof.Machine
end

section
/-!
How every command word ends (60_exceptions.md R334) and which error it reports (R336). The idea: whatever the command, its
own checks raise what one list, `checks`, raises, which has each cause of R330 to R333 at its place in the priority order.
-/

namespace Sys2Proof.Machine

open Sys2Proof.Claim

/-! ### The two endings -/

/-- The model's error is the one of R334 as the statements write it. -/
theorem raiseError_eq_errorState (w : Word) (isData : Bool) (c : ErrCode) (s : State) :
    s.raiseError w isData c = errorState w isData c s := rfl

/-- No write of a completing command is to ERR_SEEN (10_state.md R53). -/
theorem Commit.errSeen_eq {s u : State} {i : Instr} (h : Commit s i u) : u.status.errSeen = s.status.errSeen := by
  cases h <;> rfl

/-- A command word always answers a next state (70_reset_and_hazards.md R376). -/
theorem issueCommand_next (v : Word) (s : State) : ∃ t, issueCommand v s = .next t := by
  unfold issueCommand
  split
  · exact exec_next _ s
  · exact ⟨_, rfl⟩

/-- An illegal word raises ILLEGAL_COMMAND and is no data command (30_encoding.md R101, R107). -/
theorem issueCommand_of_illegal {v : Word} {why : IllegalWord} (h : decode v = .illegal why) (s : State) :
    issueCommand v s = .next (errorState v false .illegalCommand s) := by
  rw [issueCommand, h]
  rfl

/-- Settles O33: `exec_cases` gives a command's two endings, and the word it reports is the one issued
(`encode_of_decode`); an illegal word has only the erring one. -/
theorem everyWordCompletesOrRaisesOneError : Obligations.EveryWordCompletesOrRaisesOneError := by
  intro v s
  obtain ⟨t, ht⟩ := issueCommand_next v s
  refine ⟨t, ht, ?_⟩
  obtain ⟨i, hi, hexec⟩ | ⟨⟨why, hwhy⟩, rfl⟩ := issueCommand_cases ht
  · obtain ⟨c, hc, rfl⟩ | ⟨u, hu, rfl⟩ := exec_cases hexec
    · rw [encode_of_decode hi]
      exact .inr ⟨c, i.isData, hc, raiseError_eq_errorState .., by simp [hi]⟩
    · exact .inl ⟨rfl, rfl, rfl, hu.errSeen_eq, hu.errCmd_eq⟩
  · exact .inr ⟨.illegalCommand, false, by decide, raiseError_eq_errorState .., by simp [hwhy]⟩

/-! ### A list of checks in the priority order -/

/-- The checks stand in the priority order of R336, no code twice. -/
abbrev InPriorityOrder (l : List (Bool × ErrCode)) : Prop := l.Pairwise fun p q => priority p.2 < priority q.2

/-- In the priority order, a code whose condition holds while that of no earlier code does is the one raised (R336). -/
theorem firstError_eq_some_of_first {l : List (Bool × ErrCode)} (hl : InPriorityOrder l) {c : ErrCode}
    (hc : (true, c) ∈ l) (hfirst : ∀ c', priority c' < priority c → (true, c') ∉ l) : firstError l = some c := by
  induction l with
  | nil => simp at hc
  | cons p l ih =>
    obtain ⟨b, d⟩ := p
    obtain ⟨hd, htail⟩ := List.pairwise_cons.mp hl
    cases b with
    | false => exact ih htail (by simpa using hc) fun c' hc' => by simpa using hfirst c' hc'
    | true =>
      obtain heq | hmem := List.mem_cons.mp hc
      · cases heq
        rfl
      · exact absurd List.mem_cons_self (hfirst d (hd _ hmem))

/-- With no condition that holds, nothing is raised (R334). -/
theorem firstError_eq_none_of_forall_notMem {l : List (Bool × ErrCode)} (h : ∀ c, (true, c) ∉ l) :
    firstError l = none :=
  firstError_eq_none.mpr fun p hp => Bool.eq_false_iff.mpr fun hp1 => h p.2 (hp1 ▸ hp)

/-- A failing unpad is one more check, after all the others (R332, R336). -/
theorem runDataCommand_firstError (i : Instr) (l : List (Bool × ErrCode)) (out : Option (List Byte)) (s : State) :
    runDataCommand i (firstError l) out s =
      runCommand i (firstError (l ++ [(out.isNone, .paddingError)])) (State.commitOutput (out.getD [])) s := by
  induction l with
  | nil => cases out <;> rfl
  | cons p l ih =>
    obtain ⟨b, d⟩ := p
    cases b with
    | false => exact ih
    | true => rfl

/-! ### What unpad accepts -/

theorem padBytes_eq_rep (k : Nat) : padBytes k = rep k := rfl

@[simp] theorem rep_length (k : Nat) : (rep k).length = k := by simp [rep]

/-- The last byte of padded data is the pad length (44_padding.md R260). -/
theorem getD_last_append_rep (y : List Byte) {k : Nat} (h1 : 1 ≤ k) (h16 : k ≤ 16) :
    ((y ++ rep k).getD ((y ++ rep k).length - 1) 0).toNat = k := by
  have hlast : (y ++ rep k).getLast? = some (BitVec.ofNat 8 k) := by
    simp [rep, List.getLast?_append, List.getLast?_replicate, Nat.ne_of_gt h1]
  rw [List.getD_eq_getElem?_getD, ← List.getLast?_eq_getElem?, hlast, Option.getD_some, BitVec.toNat_ofNat,
    Nat.mod_eq_of_lt (by omega)]

/-- unpad accepts exactly the data that end in k bytes k with k in 1..16, and takes them away (44_padding.md R261). -/
theorem unpadData_eq_some_iff {d y : List Byte} :
    unpadData d = some y ↔ ∃ k, 1 ≤ k ∧ k ≤ 16 ∧ d = y ++ rep k := by
  unfold unpadData
  dsimp only
  constructor
  · intro h
    split_ifs at h with hempty hrange hshort htail
    cases h
    rw [not_or] at hrange
    refine ⟨(d.getD (d.length - 1) 0).toNat, by omega, by omega, ?_⟩
    rw [← padBytes_eq_rep, ← not_not.mp htail, List.take_append_drop]
  · rintro ⟨k, h1, h16, rfl⟩
    rw [getD_last_append_rep y h1 h16, if_neg (by simp; omega), if_neg (by omega), if_neg (by simp)]
    simp [padBytes_eq_rep]

/-- unpad fails exactly on data that end in no padding (44_padding.md R261). -/
theorem unpadData_eq_none_iff {d : List Byte} :
    unpadData d = none ↔ ¬ ∃ y k, 1 ≤ k ∧ k ≤ 16 ∧ d = y ++ rep k := by
  simp only [Option.eq_none_iff_forall_ne_some, ne_eq, unpadData_eq_some_iff, not_exists]

/-! ### The checks of every command -/

/-- The cause of BAD_OPERAND (R333) as a check. -/
def badOperand (i : Instr) (s : State) : Bool :=
  match i with
  | .rkStore r | .addRoundKey r => aboveNr r s
  | .gfRcon a => badRconIndex a
  | _ => false

/-- The cause of CONFIG_DATA_LENGTH (R331) as a check. -/
def badDataLength (i : Instr) (s : State) : Bool :=
  match i with
  | .encBlock | .decBlock => badBlockLength s
  | .decCbc | .decPcbc => badCiphertextLength s
  | _ => false

/-- The cause of PADDING_ERROR (R332) as a check. -/
def badPadding (i : Instr) (s : State) : Bool :=
  match i with
  | .unpad | .decCbc | .decPcbc => (unpadData (recovered i s)).isNone
  | _ => false

/-- The check of each error code of R336, in its priority order, for any command: a check that a command does not make is
false for it. -/
def checks (i : Instr) (s : State) : List (Bool × ErrCode) :=
  [(usesKey i && noKey s, .keyNotLoaded), (badOperand i s, .badOperand),
   (decide (i = .keyExpand) && badKeyLength s, .configKeyLength), (isMode i && badIvLength s, .configIvLength),
   (badDataLength i s, .configDataLength), (outOfRange i s, .addressRange), (badPadding i s, .paddingError)]

theorem checks_inPriorityOrder (i : Instr) (s : State) : InPriorityOrder (checks i s) := by
  simp [checks, priority]

/-- Every command raises the first error of `checks`, and otherwise makes its writes and completes (R334, R337): the checks
that it does not make compute to false, so what is left is its own list, and the unpad of a data command. -/
theorem exec_eq_runCommand (i : Instr) (s : State) :
    ∃ commit, exec i s = runCommand i (firstError (checks i s)) commit s := by
  cases i
  case encBlock | decBlock | pad | unpad | encCbc | decCbc | encPcbc | decPcbc | encCfb | decCfb | encOfb | decOfb |
      encCtr | decCtr =>
    exact ⟨_, runDataCommand_firstError _ _ _ s⟩
  case rkStore r => exact ⟨fun s => s.memWrite s.dstAddr.toNat (roundKey s.rk r.toNat).toBytes, rfl⟩
  case stateStore => exact ⟨fun s => s.memWrite s.dstAddr.toNat s.st.toBytes, rfl⟩
  all_goals exact ⟨_, rfl⟩

theorem badOperand_eq_true {i : Instr} {s : State} : badOperand i s = true ↔ Cause i s .badOperand := by
  unfold badOperand
  split <;> simp [Cause]

theorem badDataLength_eq_true {i : Instr} {s : State} : badDataLength i s = true ↔ Cause i s .configDataLength := by
  unfold badDataLength
  split <;> simp_all [Cause]

theorem badPadding_eq_true {i : Instr} {s : State} : badPadding i s = true ↔ Cause i s .paddingError := by
  unfold badPadding
  split <;> simp_all [Cause, unpadData_eq_none_iff]

/-- A command checks the regions that the table of 20_memory.md R75 lists for it. -/
theorem checkedRegions_eq (i : Instr) (s : State) :
    checkedRegions i s = (regionsRead i s ++ regionsWritten i s).map fun r => ⟨r.1.toNat, r.2⟩ := by
  cases i <;> rfl

theorem outOfRange_iff_cause {i : Instr} {s : State} : outOfRange i s = true ↔ Cause i s .addressRange := by
  simp only [outOfRange_eq_true, checkedRegions_eq, Cause, List.mem_map, exists_exists_and_eq_and,
    not_le]

/-- The codes that have a cause are those whose check holds (R330 to R333). -/
theorem mem_checks_iff_cause {i : Instr} {s : State} {c : ErrCode} : (true, c) ∈ checks i s ↔ Cause i s c := by
  cases c
  case badOperand => simp [checks, badOperand_eq_true]
  case configDataLength => simp [checks, badDataLength_eq_true]
  case addressRange => simp [checks, outOfRange_iff_cause]
  case paddingError => simp [checks, badPadding_eq_true]
  all_goals simp [checks, Cause]

/-- Settles O34: every command runs by `checks`, which are the causes in the priority order. -/
theorem theFirstErrorInPriorityOrderIsReported : Obligations.TheFirstErrorInPriorityOrderIsReported := by
  refine ⟨fun v s why h => issueCommand_of_illegal h s, fun i s => ?_⟩
  obtain ⟨commit, hexec⟩ := exec_eq_runCommand i s
  simp only [← mem_checks_iff_cause, hexec, ← raiseError_eq_errorState]
  refine ⟨fun c hc hfirst => ?_, fun hnone => ?_⟩
  · rw [firstError_eq_some_of_first (checks_inPriorityOrder i s) hc hfirst, runCommand]
  · rw [firstError_eq_none_of_forall_notMem hnone]
    exact ⟨_, rfl, rfl, rfl⟩

end Sys2Proof.Machine
end

section
/-!
The command word and the assembler (30_encoding.md). The facts they turn on: the fields of a command decode to it, a
word that a row of the opcode table selects is the word of some command, and two rows that disagree on the bits that
both fix select no common word.
-/

namespace Sys2Proof

open Sys2Proof.Machine

/-- The fields of a command decode to it, one case for each opcode (30_encoding.md R101, R105). -/
theorem Instr.decode_fields (i : Instr) : i.fields.decode = .command i := by
  cases i <;> rfl

/-- The word of a command decodes to it (30_encoding.md R102). -/
@[simp] theorem decode_encode (i : Instr) : decode (encode i) = .command i := by
  rw [decode, encode, Fields.ofWord_toWord, Instr.decode_fields]

/-- Settles O1: the word of some fields has those fields back, and the fields of a command decode to it. -/
theorem decodeOfEncodeIsTheCommand : Obligations.DecodeOfEncodeIsTheCommand := decode_encode

/-- Settles O2: `encode_of_decode`, since the decoder refuses every bit that the encoder leaves 0. -/
theorem encodeOfDecodeIsTheWord : Obligations.EncodeOfDecodeIsTheWord := fun _ _ => encode_of_decode

/-- Settles O4: each word evaluates. -/
theorem wordsOfTheRulesDecode : Obligations.WordsOfTheRulesDecode := by
  unfold Obligations.WordsOfTheRulesDecode
  decide +kernel

/-! ### The rows of the opcode table -/

open Sys2Proof.Laws in
/-- Every command's word selects the row of its mnemonic (30_encoding.md R106). -/
theorem exists_row_of_command : ∀ i : Instr, EncodeMatchesRow.Statement i
  | .nop => EncodeMatchesRow.nop
  | .gfAdd a b => EncodeMatchesRow.gfAdd a b
  | .gfDouble a => EncodeMatchesRow.gfDouble a
  | .gfMul a b => EncodeMatchesRow.gfMul a b
  | .gfSbox a => EncodeMatchesRow.gfSbox a
  | .gfInvSbox a => EncodeMatchesRow.gfInvSbox a
  | .gfRcon i => EncodeMatchesRow.gfRcon i
  | .keyExpand => EncodeMatchesRow.keyExpand
  | .rkStore r => EncodeMatchesRow.rkStore r
  | .stateLoad => EncodeMatchesRow.stateLoad
  | .stateStore => EncodeMatchesRow.stateStore
  | .subBytes => EncodeMatchesRow.subBytes
  | .invSubBytes => EncodeMatchesRow.invSubBytes
  | .shiftRows => EncodeMatchesRow.shiftRows
  | .invShiftRows => EncodeMatchesRow.invShiftRows
  | .mixColumns => EncodeMatchesRow.mixColumns
  | .invMixColumns => EncodeMatchesRow.invMixColumns
  | .addRoundKey r => EncodeMatchesRow.addRoundKey r
  | .encBlock => EncodeMatchesRow.encBlock
  | .decBlock => EncodeMatchesRow.decBlock
  | .pad => EncodeMatchesRow.pad
  | .unpad => EncodeMatchesRow.unpad
  | .encCbc => EncodeMatchesRow.encCbc
  | .decCbc => EncodeMatchesRow.decCbc
  | .encPcbc => EncodeMatchesRow.encPcbc
  | .decPcbc => EncodeMatchesRow.decPcbc
  | .encCfb => EncodeMatchesRow.encCfb
  | .decCfb => EncodeMatchesRow.decCfb
  | .encOfb => EncodeMatchesRow.encOfb
  | .decOfb => EncodeMatchesRow.decOfb
  | .encCtr => EncodeMatchesRow.encCtr
  | .decCtr => EncodeMatchesRow.decCtr
  | .ctrInc => EncodeMatchesRow.ctrInc

/-- The bits that a row with the field use `u` fixes: OPC and what 30_encoding.md R101 step 2 checks. -/
def FieldUse.fixed : FieldUse → Fields
  | .none => ⟨0xFF, 0xFF, 0xF, 1, 7, 0xFF⟩
  | .a => ⟨0, 0xFF, 0xF, 1, 7, 0xFF⟩
  | .ab => ⟨0, 0, 0xF, 1, 7, 0xFF⟩
  | .rk => ⟨0xFF, 0xFF, 0, 1, 7, 0xFF⟩
  | .mode => ⟨0xFF, 0xFF, 0xF, 1, 0, 0xFF⟩

/-- The opcodes of the commands with an operand, and the fields each uses (30_encoding.md R105). -/
def operandOpcodes : List (Byte × FieldUse) :=
  [(0x10, .ab), (0x11, .a), (0x12, .ab), (0x13, .a), (0x14, .a), (0x15, .a), (0x21, .rk), (0x38, .rk)]

/-- The fields of two words that agree on the bits of a mask agree under the mask's fields. -/
theorem Fields.and_of_word_and {v m x : Word} {g : Fields} (hg : g.toWord = m) (h : v &&& m = x) :
    Fields.mk ((ofWord v).a &&& g.a) ((ofWord v).b &&& g.b) ((ofWord v).rk &&& g.rk) ((ofWord v).resv &&& g.resv)
      ((ofWord v).mode &&& g.mode) ((ofWord v).opc &&& g.opc) = ofWord x := by
  rw [← h, ← hg]
  conv_rhs => rw [← toWord_ofWord v, toWord_and, ofWord_toWord]

/-- A word that has the opcode `opc` and 0 in every other fixed bit of `u` passes the check of 30_encoding.md R101
step 2. -/
theorem reservedClear_of_selected {v : Word} {u : FieldUse} {opc : Byte}
    (h : v &&& u.fixed.toWord = (Fields.plain opc).toWord) :
    (Fields.ofWord v).opc = opc ∧ (Fields.ofWord v).reservedClear u = true := by
  have hand := Fields.and_of_word_and rfl h
  have h8 (x : Byte) : x &&& 0xFF = x := BitVec.and_allOnes
  have h4 (x : BitVec 4) : x &&& 0xF = x := BitVec.and_allOnes
  have h3 (x : BitVec 3) : x &&& 7 = x := BitVec.and_allOnes
  have h1 (x : BitVec 1) : x &&& 1 = x := BitVec.and_allOnes
  generalize Fields.ofWord v = f at hand
  cases u <;> simp_all [FieldUse.fixed, Fields.plain, Fields.reservedClear]

/-- An opcode with an operand decodes to a command when the check of its own fields passes (30_encoding.md R105). -/
theorem Fields.decode_of_operandOpcode {f : Fields} {p : Byte × FieldUse} (hp : p ∈ operandOpcodes) (hopc : f.opc = p.1)
    (hclear : f.reservedClear p.2 = true) : ∃ i, f.decode = .command i := by
  simp only [operandOpcodes, List.mem_cons, List.not_mem_nil, or_false] at hp
  obtain rfl | rfl | rfl | rfl | rfl | rfl | rfl | rfl := hp <;>
    exact ⟨_, by rw [Fields.decode, hopc]; exact if_pos hclear⟩

/-- A row of the table fixes every bit, and its word is legal, or it is the row of an opcode with an operand. -/
theorem opcodeRow_cases : ∀ r ∈ opcodeRows, (r.mask = BitVec.allOnes 32 ∧ (decodeTableWord 32 r.value.toNat).isSome) ∨
    ∃ p ∈ operandOpcodes, r.mask = p.2.fixed.toWord ∧ r.value = (Fields.plain p.1).toWord := by
  decide +kernel

/-- A word that a row selects is legal (30_encoding.md R101). -/
theorem exists_command_of_selected {v : Word} {r : OpcodeRow} (hr : r ∈ opcodeRows) (h : v &&& r.mask = r.value) :
    ∃ i, decode v = .command i := by
  obtain ⟨hmask, hlegal⟩ | ⟨p, hp, hmask, hvalue⟩ := opcodeRow_cases r hr
  · rw [hmask, BitVec.and_allOnes] at h
    rw [h]
    cases hd : decode r.value with
    | command i => exact ⟨i, rfl⟩
    | illegal why => simp [decodeTableWord, Nat.mod_eq_of_lt r.value.isLt, hd] at hlegal
  · rw [hmask, hvalue] at h
    obtain ⟨hopc, hclear⟩ := reservedClear_of_selected h
    exact Fields.decode_of_operandOpcode hp hopc hclear

/-- A legal word is selected by the row of its command's mnemonic (30_encoding.md R106). -/
theorem exists_row_of_decode {v : Word} {i : Instr} (h : decode v = .command i) :
    ∃ r ∈ opcodeRows, r.mnemonic = i.source.mnemonic ∧ v &&& r.mask = r.value := by
  obtain ⟨r, hr, hmnemonic, hselects⟩ := exists_row_of_command i
  rw [encode_of_decode h] at hselects
  exact ⟨r, hr, hmnemonic, by simpa [OpcodeRow.selects] using hselects⟩

/-- Two rows whose values differ on a bit that both fix select no common word. -/
theorem not_both_selected {p q : OpcodeRow} (h : p.value &&& q.mask ≠ q.value &&& p.mask) (v : Word) :
    ¬ (v &&& p.mask = p.value ∧ v &&& q.mask = q.value) := by
  rintro ⟨hp, hq⟩
  refine h ?_
  rw [← hp, ← hq, BitVec.and_assoc, BitVec.and_assoc, BitVec.and_comm p.mask]

theorem opcodeRows_pairwise : opcodeRows.Pairwise fun p q => p.value &&& q.mask ≠ q.value &&& p.mask := by
  decide +kernel

/-- Settles O3: legal words and selected words are the same ones, and any two rows differ on a bit that both fix. -/
theorem decodingAcceptsExactlyTheTableRows : Obligations.DecodingAcceptsExactlyTheTableRows := by
  refine ⟨fun v => ?_, fun v => ⟨fun ⟨i, hi⟩ => ?_, fun ⟨r, hr, h⟩ => exists_command_of_selected hr h⟩,
    fun v i h => exists_row_of_decode h, opcodeRows_pairwise.imp not_both_selected⟩
  · cases decode v with
    | command i => exact .inl ⟨i, rfl⟩
    | illegal why => exact .inr ⟨why, rfl⟩
  · obtain ⟨r, hr, -, h⟩ := exists_row_of_decode hi
    exact ⟨r, hr, h⟩

/-! ### The assembler -/

/-- The line of a command is one that the assembler accepts (30_encoding.md R109). -/
theorem Instr.source_wf (i : Instr) : i.source.wf = true := by
  cases i <;> simp [Instr.source, SourceLine.wf, operandForm, fitsByte, fitsIndex] <;> omega

/-- The line of a command stands for that command (30_encoding.md R109). -/
theorem Instr.command_source (i : Instr) : i.source.command = some i := by
  cases i <;> simp [Instr.source, SourceLine.command]

/-- The assembler gives every command its word (30_encoding.md R109). -/
theorem assemble_source (i : Instr) : assemble i.source = some (encode i) := by
  rw [assemble, if_pos i.source_wf, i.command_source, Option.map_some]

/-- The assembler refuses what is not well formed (30_encoding.md R109). -/
theorem assemble_eq_none_of_not_wf {l : SourceLine} (h : ¬ l.wf = true) : assemble l = none := if_neg h

/-- Each number of a well-formed line fits in a byte (30_encoding.md R109). -/
theorem le_of_num_wf {mn : String} {a : Nat} (h : SourceLine.wf ⟨mn, [.num a]⟩ = true) : a ≤ 0xFF := by
  unfold SourceLine.wf at h
  split at h <;> simp_all only [fitsByte, fitsIndex, List.cons.injEq, SourceOperand.num.injEq, reduceCtorEq,
    decide_eq_true_eq, and_true, and_false]
  omega

/-- The number of a well-formed line of an index mnemonic fits in the index field (30_encoding.md R109). -/
theorem le_of_index_wf {mn : String} {r : Nat} (hmn : operandForm mn = some .index)
    (h : SourceLine.wf ⟨mn, [.num r]⟩ = true) : r ≤ 15 := by
  simpa [SourceLine.wf, hmn, fitsIndex] using h

/-- Both numbers of a well-formed line fit in a byte (30_encoding.md R109). -/
theorem le_of_num_num_wf {mn : String} {a b : Nat} (h : SourceLine.wf ⟨mn, [.num a, .num b]⟩ = true) :
    a ≤ 0xFF ∧ b ≤ 0xFF := by
  unfold SourceLine.wf at h
  split at h <;> simp_all [fitsByte]

/-- The mode name of a well-formed line is one of the five (30_encoding.md R104, R109). -/
theorem mem_of_mode_wf {mn name : String} (h : SourceLine.wf ⟨mn, [.mode name]⟩ = true) :
    name ∈ ["CBC", "PCBC", "CFB", "OFB", "CTR"] := by
  unfold SourceLine.wf at h
  split at h <;> simp_all [isModeName, or_assoc]

/-- ENC_MODE and DEC_MODE with a mode name stand for the mode's own commands (30_encoding.md R109). -/
theorem assemble_mode : ∀ p ∈ [(ChainMode.cbc, "CBC"), (.pcbc, "PCBC"), (.cfb, "CFB"), (.ofb, "OFB"), (.ctr, "CTR")],
    assemble ⟨"ENC_MODE", [.mode p.2]⟩ = some (encode (encMode p.1)) ∧
    assemble ⟨"DEC_MODE", [.mode p.2]⟩ = some (encode (decMode p.1)) := by
  decide +kernel

/-- Settles O5: the lines of the commands are well formed, and a number or name that does not fit makes a line that is
not. -/
theorem assemblerGivesEveryCommandItsWord : Obligations.AssemblerGivesEveryCommandItsWord := by
  refine ⟨assemble_source, fun m name h => assemble_mode _ h, fun mn a b h => ?_, fun mn a h => ?_, fun r h => ⟨?_, ?_⟩,
    fun mn name h => ?_⟩ <;> refine assemble_eq_none_of_not_wf fun hwf => ?_
  · have := le_of_num_num_wf hwf
    omega
  · have := le_of_num_wf hwf
    omega
  · have := le_of_index_wf (by decide) hwf
    omega
  · have := le_of_index_wf (by decide) hwf
    omega
  · exact h (mem_of_mode_wf hwf)

end Sys2Proof
end

section
/-!
What a command leaves alone (10_state.md §2 to §4, 20_memory.md R80). Every fact here is read off `exec_cases`: an error
touches STATUS, ERR_CMD and OUT_LEN, and each of the six kinds of writes of `Commit` its own field.
-/

namespace Sys2Proof.Machine

open Sys2Proof.Claim

/-- Settles O36: neither ending of a command writes one of these fields. -/
theorem noCommandWritesTheHostsRegisters : Obligations.NoCommandWritesTheHostsRegisters := by
  intro i s t h
  obtain ⟨c, -, rfl⟩ | ⟨u, hu, rfl⟩ := exec_cases h
  · simp
  · cases hu <;> simp

/-- Only the writes of KEY_EXPAND are to the key slot (10_state.md R37, R38). -/
theorem Commit.keySlot_eq {s u : State} {i : Instr} (h : Commit s i u) (hi : i ≠ .keyExpand) :
    u.rk = s.rk ∧ u.status.keyValid = s.status.keyValid ∧ u.status.nk = s.status.nk ∧
      u.status.nr = s.status.nr := by
  cases h with
  | key => exact absurd rfl hi
  | nop | gf | st | store | output => exact ⟨rfl, rfl, rfl, rfl⟩

/-- Only the writes of a data command are to OUT_LEN (10_state.md R47). -/
theorem Commit.outLen_eq {s u : State} {i : Instr} (h : Commit s i u) (hi : i.isData = false) :
    u.outLen = s.outLen := by
  cases h with
  | output _ _ hdata => simp [hi] at hdata
  | nop | gf | key | st | store => rfl

/-- Only the writes of a GF command are to GF_RESULT (10_state.md R48). -/
theorem Commit.gfResult_eq {s u : State} {i : Instr} (h : Commit s i u) (hi : writesGfResult i = false) :
    u.gfResult = s.gfResult := by
  cases h with
  | gf _ _ hgf => simp [hi] at hgf
  | nop | key | st | store | output => rfl

/-- Only the writes of the commands of 10_state.md R35 are to STATE. -/
theorem Commit.st_eq {s u : State} {i : Instr} (h : Commit s i u) (hi : writesState i = false) : u.st = s.st := by
  cases h with
  | st _ _ hst => simp [hi] at hst
  | nop | gf | key | store | output => rfl

/-- Settles O37: an error keeps all four, OUT_LEN for a command that is no data command, and so do another command's
writes. -/
theorem eachSpecialRegisterHasItsOwnCommands : Obligations.EachSpecialRegisterHasItsOwnCommands := by
  intro i s t h
  obtain ⟨c, -, rfl⟩ | ⟨u, hu, rfl⟩ := exec_cases h
  · exact ⟨fun _ => ⟨rfl, rfl, rfl, rfl⟩, fun hi => by simp [hi], fun _ => rfl, fun _ => rfl⟩
  · exact ⟨hu.keySlot_eq, hu.outLen_eq, hu.gfResult_eq, hu.st_eq⟩

/-- Settles O38: both endings of R334 write these flags, and no write of a command is to ERR_SEEN. -/
theorem commandsUpdateTheFlags : Obligations.CommandsUpdateTheFlags := by
  intro i s t h
  obtain ⟨c, hc, rfl⟩ | ⟨u, hu, rfl⟩ := exec_cases h
  · simp [hc]
  · simp [hu.errSeen_eq]

/-- A data command stores its output, not sixteen bytes of the block's own (10_state.md R46). -/
theorem isData_of_storesSixteen {i : Instr} (h : storesSixteen i = true) : i.isData = false := by
  cases i
  case rkStore | stateStore => rfl
  all_goals cases h

/-- What a command that completes has written of BUF lies in (DST_ADDR, 16) or in its reported output (20_memory.md
R80). -/
theorem Commit.buf_read_eq {s u : State} {i : Instr} (h : Commit s i u) (hcfg : s.cfg.bufSize < 2 ^ 32) {x : Nat}
    (hstore : storesSixteen i = true → Outside s.dstAddr.toNat 16 x)
    (hdata : i.isData = true → Outside s.dstAddr.toNat u.outLen.toNat x) : u.buf.read x = s.buf.read x := by
  cases h with
  | store _ b hi => exact Memory.read_writeBytes_outside _ (hstore hi)
  | output _ out hi hfit =>
    rw [State.commitOutput_outLen, BitVec.toNat_ofNat, Nat.mod_eq_of_lt (by omega)] at hdata
    exact Memory.read_writeBytes_outside _ (hdata hi)
  | nop | gf | key | st => rfl

theorem bufSize_le_of_wf {c : Config} (h : c.wf = true) : c.bufSize ≤ 2 ^ 31 := by
  simp only [Config.wf, Bool.and_eq_true, decide_eq_true_eq] at h
  exact h.2

/-- Settles O39: an error leaves BUF, and a command's writes lie in its own region. -/
theorem commandsLeaveTheRestOfBuf : Obligations.CommandsLeaveTheRestOfBuf := by
  intro i s t hcfg h
  have hsize : s.cfg.bufSize < 2 ^ 32 := by have := bufSize_le_of_wf hcfg; omega
  obtain ⟨c, -, rfl⟩ | ⟨u, hu, rfl⟩ := exec_cases h
  · exact ⟨fun _ _ _ => rfl, fun _ _ _ => rfl, fun _ _ _ => rfl⟩
  · refine ⟨fun hdata hstore x => hu.buf_read_eq hsize (by simp [hstore]) (by simp [hdata]),
      fun hstore x hx => hu.buf_read_eq hsize (fun _ => hx) (by simp [isData_of_storesSixteen hstore]),
      fun hdata x hx => hu.buf_read_eq hsize (fun hstore => ?_) fun _ => hx⟩
    simp [isData_of_storesSixteen hstore] at hdata

/-- Settles O32: NOP writes nothing and completes. -/
theorem nopOnlyClearsTheLastError : Obligations.NopOnlyClearsTheLastError := fun _ => rfl

end Sys2Proof.Machine
end

section
/-!
One host action as a step (10_state.md §3, 20_memory.md R73, 70_reset_and_hazards.md). What a step does is said once, by
`step_of_pending` and the equations of the two interfaces, idle and busy.
-/

namespace Sys2Proof.Machine

open Sys2Proof.Claim

/-- A step takes the host's next action (10_state.md R32). -/
theorem step_of_pending {s : State} {a : HostAction} {rest : List HostAction} (h : s.pending = a :: rest) :
    step s = hostAction a { s with pending := rest } := by
  rw [step, h]

/-- A step while BUSY is 0 (10_state.md R32). -/
theorem step_of_idle {s : State} {a : HostAction} {rest : List HostAction} (hbusy : s.status.busy = false)
    (h : s.pending = a :: rest) : step s = idleAction a { s with pending := rest } := by
  simp [step_of_pending h, hostAction, hbusy]

/-- A step while BUSY is 1 (70_reset_and_hazards.md R375). -/
theorem step_of_busy {s : State} {a : HostAction} {rest : List HostAction} (hbusy : s.status.busy = true)
    (h : s.pending = a :: rest) : step s = busyAction a { s with pending := rest } := by
  simp [step_of_pending h, hostAction, hbusy]

@[simp] theorem idleAction_regWrite_cmd (v : Word) (s : State) :
    idleAction (.regWrite 0x0 v) s = issueCommand v s := rfl

theorem idleAction_regWrite_of_ne {n : BitVec 4} (h : n ≠ 0x0) (v : Word) (s : State) :
    idleAction (.regWrite n v) s = .next (regStore n v s) := if_neg h

@[simp] theorem idleAction_regRead (n : BitVec 4) (s : State) :
    idleAction (.regRead n) s = .next (s.reply (.register (regRead n s))) := rfl

/-- A legal word runs its command (10_state.md R41). -/
theorem issueCommand_of_command {v : Word} {i : Instr} (h : decode v = .command i) (s : State) :
    issueCommand v s = exec i s := by
  rw [issueCommand, h]

/-- A word that decodes through the table's numbering decodes as the word it stands for (30_encoding.md R108). -/
theorem decode_of_decodeTableWord {nbits w : Nat} {i : Instr} (h : decodeTableWord nbits w = some i) :
    decode (BitVec.ofNat 32 (w % 2 ^ nbits)) = .command i := by
  unfold decodeTableWord at h
  split at h <;> cases h
  assumption

/-- Settles O40: the step issues the word, which is legal. -/
theorem stepRunsTheDecodedCommand : Obligations.StepRunsTheDecodedCommand := by
  refine ⟨fun s v rest i hbusy hpending hi => ?_, fun s nbits w i hi => ?_⟩
  · rw [step_of_idle hbusy hpending, idleAction_regWrite_cmd, issueCommand_of_command hi]
  · rw [step_of_idle rfl (State.withFetchWord_pending s nbits w)]
    exact issueCommand_of_command (decode_of_decodeTableWord hi) _

/-- Settles O41: the step issues the word, which is illegal. -/
theorem stepOfAnIllegalWordOnlyReports : Obligations.StepOfAnIllegalWordOnlyReports := by
  intro s v rest why hbusy hpending hwhy
  rw [step_of_idle hbusy hpending, idleAction_regWrite_cmd, issueCommand_of_illegal hwhy]
  rfl

/-- What a register write does to each read-write register (10_state.md R51). -/
theorem regStore_eq (n : BitVec 4) (v : Word) (s : State) : regStore n v s = { s with
    keyAddr := if n = 0x2 then v else s.keyAddr
    keyLen := if n = 0x3 then v else s.keyLen
    ivAddr := if n = 0x4 then v else s.ivAddr
    ivLen := if n = 0x5 then v else s.ivLen
    srcAddr := if n = 0x6 then v else s.srcAddr
    srcLen := if n = 0x7 then v else s.srcLen
    dstAddr := if n = 0x8 then v else s.dstAddr } := by
  obtain ⟨n, hn⟩ := n
  interval_cases n <;> rfl

/-- A read-write register reads back what was written (10_state.md R51). -/
theorem regRead_regStore {n : BitVec 4} (h2 : 0x2 ≤ n.toNat) (h8 : n.toNat ≤ 0x8) (v : Word) (s : State) :
    regRead n (regStore n v s) = v := by
  obtain ⟨⟨n, hn⟩⟩ := n
  change 2 ≤ n at h2
  change n ≤ 8 at h8
  interval_cases n <;> rfl

/-- Settles O42: a write to a register other than CMD is `regStore`. -/
theorem hostWritesReachOnlyReadWriteRegisters : Obligations.HostWritesReachOnlyReadWriteRegisters := by
  intro s n v rest hbusy hpending hn
  refine ⟨_, (step_of_idle hbusy hpending).trans (idleAction_regWrite_of_ne hn v _), regStore_eq n v _,
    fun ⟨h2, h8⟩ => regRead_regStore h2 h8 v _⟩

/-- The registers by number (10_state.md R40). -/
theorem regRead_eq_getD (n : BitVec 4) (s : State) : regRead n s =
    [0, s.status.toWord, s.keyAddr, s.keyLen, s.ivAddr, s.ivLen, s.srcAddr, s.srcLen, s.dstAddr, s.outLen,
      s.gfResult, s.errCmd, 0, 0, 0, 0].getD n.toNat 0 := by
  obtain ⟨n, hn⟩ := n
  interval_cases n <;> rfl

/-- Settles O43: the reply is the register that `regRead_eq_getD` names. -/
theorem hostReadsReturnTheRegister : Obligations.HostReadsReturnTheRegister := by
  intro s n rest hbusy hpending
  rw [step_of_idle hbusy hpending, idleAction_regRead, regRead_eq_getD]
  rfl

/-! ### STATUS as a word -/

/-- The fields of STATUS above ERRCODE stand at their bits (10_state.md R42). -/
theorem Status.toWord_fields (q : Status) : q.toWord.extractLsb' 24 8 = 0 ∧ q.toWord.extractLsb' 20 4 = q.nr ∧
    q.toWord.extractLsb' 16 4 = q.nk ∧ q.toWord.extractLsb' 8 8 = q.errCode.code ∧ q.toWord.extractLsb' 4 4 = 0 := by
  refine ⟨?_, ?_, ?_, ?_, ?_⟩ <;> refine BitVec.eq_of_getLsbD_eq fun i hi => ?_ <;>
    simp only [Status.toWord, BitVec.getLsbD_extractLsb', BitVec.getLsbD_append] <;> interval_cases i <;> simp

/-- The flags of STATUS stand at their bits (10_state.md R42). -/
theorem Status.toWord_flags (q : Status) : q.toWord.getLsbD 0 = q.busy ∧ q.toWord.getLsbD 1 = q.err ∧
    q.toWord.getLsbD 2 = q.errSeen ∧ q.toWord.getLsbD 3 = q.keyValid := by
  refine ⟨?_, ?_, ?_, ?_⟩ <;> simp only [Status.toWord, flagBit, BitVec.getLsbD_append] <;> simp

/-- Settles O44: the fields by `Status.toWord_fields`, the numbers by the table of R330. -/
theorem statusFieldsStandAtTheirBits : Obligations.StatusFieldsStandAtTheirBits := by
  intro q
  obtain ⟨hhigh, hnr, hnk, hcode, hlow⟩ := q.toWord_fields
  obtain ⟨hbusy, herr, hseen, hkey⟩ := q.toWord_flags
  refine ⟨hbusy, herr, hseen, hkey, hlow, hhigh, hnk, hnr, ?_⟩
  rw [hcode]
  cases q.errCode <;> decide

/-! ### BUF -/

theorem idleAction_bufWrite_of_lt {s : State} {x : Nat} (h : x < s.cfg.bufSize) (v : Byte) :
    idleAction (.bufWrite x v) s = .next { s with buf := s.buf.write x v } := if_pos h

theorem idleAction_bufRead_of_lt {s : State} {x : Nat} (h : x < s.cfg.bufSize) :
    idleAction (.bufRead x) s = .next (s.reply (.byte (s.buf.read x))) := if_pos h

/-- Settles O45: an access below BUF_SIZE is one write or read of BUF, and any other is refused. -/
theorem hostReachesTheBytesOfBuf : Obligations.HostReachesTheBytesOfBuf := by
  intro s x v rest hbusy hbuf
  refine ⟨fun hpending hx => ?_, fun hpending hx => ?_, fun hpending hx => ?_⟩
  · exact ⟨_, (step_of_idle hbusy hpending).trans (idleAction_bufWrite_of_lt (s := { s with pending := rest }) hx v),
      rfl, Memory.read_write_same hbuf x v, fun y hy => Memory.read_write_ne s.buf hy v⟩
  · exact (step_of_idle hbusy hpending).trans (idleAction_bufRead_of_lt hx)
  · obtain hpending | hpending := hpending <;> rw [step_of_idle hbusy hpending] <;> exact if_neg (by simpa using hx)

/-! ### Reset, idle and busy -/

/-- Whatever the draw of a reset leaves in BUF is in canonical form (20_memory.md R70). -/
theorem drawnBuf_wf (n : Nat) (cells : List (Nat × Byte)) : (drawnBuf n cells).wf := by
  induction cells with
  | nil => simp [drawnBuf, Memory.wf]
  | cons c cells ih =>
    obtain ⟨a, v⟩ := c
    rw [drawnBuf]
    split
    · exact Memory.wf_write ih a v
    · exact ih

/-- A draw that gives each address its byte leaves that byte there (93_implementation_defined.md I2). -/
theorem drawnBuf_read {n x : Nat} {xs : List Nat} (hx : x ∈ xs) (hn : x < n) (byte : Nat → Byte) :
    (drawnBuf n (xs.map fun a => (a, byte a))).read x = byte x := by
  induction xs with
  | nil => simp at hx
  | cons a xs ih =>
    rw [List.map_cons, drawnBuf]
    by_cases hax : x = a
    · subst hax
      rw [if_pos hn, Memory.read_write_same (drawnBuf_wf n _)]
    · have hread := ih ((List.mem_cons.mp hx).resolve_left hax)
      split
      · rw [Memory.read_write_ne _ hax, hread]
      · exact hread

/-- Every register reads 0 after a reset (70_reset_and_hazards.md R370). -/
theorem regRead_resetBlock (n : BitVec 4) (d : ResetDraw) (s : State) : regRead n (resetBlock d s) = 0 := by
  have hstatus : (resetBlock d s).status.toWord = 0 := (by decide : Status.reset.toWord = 0)
  rw [regRead_eq_getD, hstatus]
  obtain ⟨n, hn⟩ := n
  interval_cases n <;> rfl

/-- A reset at the head of the host's actions is taken, whatever BUSY is (70_reset_and_hazards.md R370). -/
theorem step_of_reset {s : State} {d : ResetDraw} {rest : List HostAction} (h : s.pending = .reset d :: rest) :
    step s = .next (resetBlock d { s with pending := rest }) := by
  rw [step_of_pending h, hostAction_reset]

/-- Settles O46: the reset event is `resetBlock`, and its draw can name every byte of BUF. -/
theorem resetClearsTheRegistersAndNothingElseIsFixed : Obligations.ResetClearsTheRegistersAndNothingElseIsFixed := by
  refine ⟨fun s d rest h => ?_, fun s rest st rk byte => ?_⟩
  · exact ⟨_, step_of_reset h, fun n => regRead_resetBlock n d _, rfl, rfl, rfl, rfl, rfl, rfl⟩
  · exact ⟨⟨st, rk, (List.range s.cfg.bufSize).map fun a => (a, byte a)⟩, _, step_of_reset rfl, rfl, rfl,
      fun x hx => drawnBuf_read (List.mem_range.mpr hx) hx byte⟩

/-- While BUSY is 1 the host's only action is a read of STATUS (70_reset_and_hazards.md R375). -/
theorem busyAction_of_refused {a : HostAction} (hreset : ∀ d, a ≠ .reset d) (hread : a ≠ .regRead 0x1) (s : State) :
    busyAction a s = .refused .hostActionWhileBusy := by
  cases a with
  | regRead n => exact if_neg fun hn => hread (by rw [hn]; rfl)
  | reset d => exact absurd rfl (hreset d)
  | regWrite | bufWrite | bufRead => rfl

/-- Settles O47: an empty list gives an idle step, and a busy block takes `busyAction`. -/
theorem idleStepsChangeNothingAndBusyOnesRefuse : Obligations.IdleStepsChangeNothingAndBusyOnesRefuse := by
  refine ⟨fun s h => by rw [step, h], fun s rest hbusy hpending => ?_, fun s a rest hbusy hpending hreset hread => ?_⟩
  · rw [step_of_busy hbusy hpending]
    rfl
  · rw [step_of_busy hbusy hpending, busyAction_of_refused hreset hread]

end Sys2Proof.Machine
end

section
/-!
What every step keeps (10_state.md §2, §3; 70_reset_and_hazards.md R372, R376). What one host action can do is said
once, by `Effect`; each invariant then takes its cases, the one about a command answered by `exec_cases`.
-/

namespace Sys2Proof.Machine

open Sys2Proof.Claim

/-! ### All that a step can do -/

/-- What a host action that is taken does: `Effect s a t` says that `t` is `s` after `a`. -/
inductive Effect (s : State) : HostAction → State → Prop where
  | command (v : Word) (t : State) : issueCommand v s = .next t → Effect s (.regWrite regCmd v) t
  | register (n : BitVec 4) (v : Word) : Effect s (.regWrite n v) (regStore n v s)
  | regRead (n : BitVec 4) : Effect s (.regRead n) (s.reply (.register (regRead n s)))
  | bufWrite (x : Nat) (v : Byte) : x < s.cfg.bufSize → Effect s (.bufWrite x v) { s with buf := s.buf.write x v }
  | bufRead (x : Nat) : Effect s (.bufRead x) (s.reply (.byte (s.buf.read x)))
  | reset (d : ResetDraw) : Effect s (.reset d) (resetBlock d s)

/-- Every action that an idle block takes has its effect (10_state.md R41, R51; 20_memory.md R73). -/
theorem idleAction_cases {a : HostAction} {s t : State} (h : idleAction a s = .next t) : Effect s a t := by
  unfold idleAction at h
  cases a with
  | regWrite n v =>
    by_cases hn : n = regCmd
    · rw [hn] at h ⊢
      exact .command v t h
    · cases (if_neg hn).symm.trans h
      exact .register n v
  | regRead n =>
    cases h
    exact .regRead n
  | bufWrite x v =>
    dsimp only at h
    split at h <;> cases h
    next hx => exact .bufWrite x v hx
  | bufRead x =>
    dsimp only at h
    split at h <;> cases h
    exact .bufRead x
  | reset d =>
    cases h
    exact .reset d

/-- Every action that a busy block takes has its effect (70_reset_and_hazards.md R370, R375). -/
theorem busyAction_cases {a : HostAction} {s t : State} (h : busyAction a s = .next t) : Effect s a t := by
  unfold busyAction at h
  cases a with
  | regRead n =>
    dsimp only at h
    split at h <;> cases h
    exact .regRead n
  | reset d =>
    cases h
    exact .reset d
  | regWrite | bufWrite | bufRead => cases h

/-- All that a step can do: nothing, or the effect of the host's next action (10_state.md R32, 70_reset_and_hazards.md
R371). -/
theorem step_cases {s t : State} (h : step s = .next t) :
    (s.pending = [] ∧ t = s) ∨ ∃ a rest, s.pending = a :: rest ∧ Effect { s with pending := rest } a t := by
  cases hp : s.pending with
  | nil =>
    rw [step, hp] at h
    cases h
    exact .inl ⟨rfl, rfl⟩
  | cons a rest =>
    rw [step_of_pending hp, hostAction] at h
    refine .inr ⟨a, rest, rfl, ?_⟩
    split at h
    · exact busyAction_cases h
    · exact idleAction_cases h

/-- No effect is on the parameters or on what the host has pending (00_scope.md R13, 10_state.md R31). -/
theorem Effect.cfg_pending {s t : State} {a : HostAction} (h : Effect s a t) :
    t.cfg = s.cfg ∧ t.pending = s.pending := by
  cases h with
  | command v t hv =>
    obtain ⟨i, -, hexec⟩ | ⟨-, rfl⟩ := issueCommand_cases hv
    · obtain ⟨-, -, -, -, -, -, -, hcfg, hpending, -⟩ := noCommandWritesTheHostsRegisters i s t hexec
      exact ⟨hcfg, hpending⟩
    · exact ⟨rfl, rfl⟩
  | register n v => rw [regStore_eq]; exact ⟨rfl, rfl⟩
  | regRead | bufWrite | bufRead | reset => exact ⟨rfl, rfl⟩

/-! ### The invariant -/

/-- "Complete" leaves a legal STATUS (60_exceptions.md R334). -/
theorem Status.Legal.completed {q : Status} (h : q.Legal) : q.completed.Legal where
  busy := rfl
  err := by simp
  seen := by simp
  size := h.size
  noSize := h.noSize

/-- "Error(code)" leaves a legal STATUS (60_exceptions.md R334). -/
theorem Status.Legal.errored {q : Status} (h : q.Legal) {c : ErrCode} (hc : c ≠ .noError) : (q.errored c).Legal where
  busy := rfl
  err := by simp [hc]
  seen := by simp
  size := h.size
  noSize := h.noSize

/-- The key status of a legal key is legal (10_state.md R38). -/
theorem Status.Legal.keyLoaded {q : Status} (h : q.Legal) {key : List Byte}
    (hkey : key.length = 16 ∨ key.length = 24 ∨ key.length = 32) :
    (q.keyLoaded (key.length / 4) (roundsOf (key.length / 4))).Legal where
  busy := h.busy
  err := h.err
  seen := h.seen
  size := fun _ => by
    rw [Status.keyLoaded_nk, Status.keyLoaded_nr]
    obtain hkey | hkey | hkey := hkey <;> rw [hkey] <;> decide
  noSize := by simp

theorem Status.reset_legal : Status.reset.Legal := ⟨rfl, by decide, by decide, by decide, by decide⟩

/-- A write of one byte below BUF_SIZE keeps BUF in canonical form and below BUF_SIZE (20_memory.md R73). -/
theorem State.Inv.write {s : State} (h : s.Inv) {x : Nat} (hx : x < s.cfg.bufSize) (v : Byte) :
    State.Inv { s with buf := s.buf.write x v } :=
  { h with bufForm := Memory.wf_write h.bufForm x v, bufRange := Memory.within_write h.bufRange hx v }

/-- MemWrite within BUF keeps the invariant (20_memory.md R72). -/
theorem State.Inv.memWrite {s : State} (h : s.Inv) {a : Nat} {vs : List Byte} (ha : a + vs.length ≤ s.cfg.bufSize) :
    (s.memWrite a vs).Inv :=
  { h with bufForm := Memory.wf_writeBytes h.bufForm a vs, bufRange := Memory.within_writeBytes h.bufRange ha }

theorem State.Inv.complete {s : State} (h : s.Inv) : s.complete.Inv := { h with status := h.status.completed }

/-- Raising an error keeps the invariant (60_exceptions.md R334). -/
theorem State.Inv.raiseError {s : State} (h : s.Inv) (w : Word) (isData : Bool) {c : ErrCode} (hc : c ≠ .noError) :
    (s.raiseError w isData c).Inv :=
  { h with
    status := h.status.errored hc
    outLen := by
      cases isData
      · exact h.outLen
      · exact Nat.zero_le _ }

/-- The writes of every command keep the invariant (60_exceptions.md R337). -/
theorem Commit.inv {s u : State} {i : Instr} (h : Commit s i u) (hs : s.Inv) : u.Inv := by
  cases h with
  | nop => exact hs
  | gf _ v _ => exact { hs with gfResult := by have := v.isLt; simp; omega }
  | key key hkey => exact { hs with status := hs.status.keyLoaded hkey }
  | st _ f _ => exact { hs with }
  | store _ b _ hfit => exact hs.memWrite hfit
  | output _ out _ hfit =>
    refine { hs.memWrite hfit with outLen := ?_ }
    have := Nat.mod_le out.length (2 ^ 32)
    simp only [State.commitOutput_outLen, State.commitOutput_cfg, BitVec.toNat_ofNat]
    omega

/-- A command word keeps the invariant, legal or not (60_exceptions.md R334). -/
theorem issueCommand_inv {v : Word} {s t : State} (hs : s.Inv) (h : issueCommand v s = .next t) : t.Inv := by
  obtain ⟨i, -, hexec⟩ | ⟨-, rfl⟩ := issueCommand_cases h
  · obtain ⟨c, hc, rfl⟩ | ⟨u, hu, rfl⟩ := exec_cases hexec
    · exact hs.raiseError _ _ hc
    · exact (hu.inv hs).complete
  · exact hs.raiseError _ _ (by decide)

/-- The draw of a reset leaves nothing at or above BUF_SIZE (20_memory.md R70). -/
theorem drawnBuf_within (n : Nat) (cells : List (Nat × Byte)) : (drawnBuf n cells).within n := by
  induction cells with
  | nil => simp [drawnBuf, Memory.within]
  | cons c cells ih =>
    obtain ⟨a, v⟩ := c
    rw [drawnBuf]
    split
    · next ha => exact Memory.within_write ih ha v
    · exact ih

/-- Every action keeps the invariant. -/
theorem Effect.inv {s t : State} {a : HostAction} (h : Effect s a t) (hs : s.Inv) : t.Inv := by
  cases h with
  | command v t hv => exact issueCommand_inv hs hv
  | register n v => rw [regStore_eq]; exact { hs with }
  | regRead | bufRead => exact { hs with }
  | bufWrite x v hx => exact hs.write hx v
  | reset d =>
    exact { cfg := hs.cfg, status := Status.reset_legal, bufForm := drawnBuf_wf _ _, bufRange := drawnBuf_within _ _,
            gfResult := by simp [resetBlock], outLen := Nat.zero_le _ }

/-- Settles O49: an idle step changes nothing, and the effect of every action keeps the invariant. -/
theorem everyStepKeepsTheInvariant : Obligations.EveryStepKeepsTheInvariant := by
  intro s t hs h
  obtain ⟨-, rfl⟩ | ⟨a, rest, -, heffect⟩ := step_cases h
  · exact hs
  · exact heffect.inv { hs with }

/-! ### The key slot -/

/-- The slot holds the whole schedule of the key that was loaded into it (41_key_schedule.md R180). -/
theorem roundKey_storeRoundKeys_of_le {key : List Byte} {j : Nat} (hj : j ≤ roundsOf (key.length / 4))
    (rk : RoundKeys) :
    roundKey (storeRoundKeys (keySchedule key) rk) j = (keySchedule key).getD j .zero := by
  have hj15 : j < 15 := by have := roundsOf_le (key.length / 4); omega
  have hlen : j < (keySchedule key).length := by rw [keySchedule_length]; omega
  rw [roundKey_storeRoundKeys _ _ hj15, List.getD_eq_getElem _ _ hlen, List.getD_eq_getElem _ _ hlen]

/-- NK as the key slot holds it after KEY_EXPAND (10_state.md R38). -/
theorem nk_loadKey {key : List Byte} (hkey : key.length = 16 ∨ key.length = 24 ∨ key.length = 32) (s : State) :
    (s.loadKey key).status.nk.toNat = key.length / 4 := by
  rw [State.loadKey_status, Status.keyLoaded_nk, BitVec.toNat_ofNat]
  omega

/-- KEY_EXPAND leaves a whole schedule in the slot (41_key_schedule.md R180, R182). -/
theorem holdsKey_loadKey {key : List Byte} (hkey : key.length = 16 ∨ key.length = 24 ∨ key.length = 32) (s : State) :
    (s.loadKey key).HoldsKey := by
  intro _
  rw [nk_loadKey hkey, rounds_loadKey]
  exact ⟨key, by omega, rfl, fun j hj => roundKey_storeRoundKeys_of_le hj s.rk⟩

theorem State.HoldsKey.complete {s : State} (h : s.HoldsKey) : s.complete.HoldsKey := h.congr rfl rfl rfl rfl

theorem State.HoldsKey.raiseError {s : State} (h : s.HoldsKey) (w : Word) (isData : Bool) (c : ErrCode) :
    (s.raiseError w isData c).HoldsKey := h.congr rfl rfl rfl rfl

/-- The writes of a command leave a whole schedule in the slot: KEY_EXPAND its own, any other the one that was there
(41_key_schedule.md R182). -/
theorem Commit.holdsKey {s u : State} {i : Instr} (h : Commit s i u) (hs : s.HoldsKey) : u.HoldsKey := by
  by_cases hi : i = .keyExpand
  · subst hi
    cases h with
    | key key hkey => exact holdsKey_loadKey hkey s
    | gf _ _ hi | st _ _ hi | store _ _ hi | output _ _ hi => cases hi
  · obtain ⟨hrk, hvalid, hnk, hnr⟩ := h.keySlot_eq hi
    exact hs.congr hrk hvalid hnk hnr

/-- A command word leaves a whole schedule in the slot, legal or not (41_key_schedule.md R182). -/
theorem issueCommand_holdsKey {v : Word} {s t : State} (hs : s.HoldsKey) (h : issueCommand v s = .next t) :
    t.HoldsKey := by
  obtain ⟨i, -, hexec⟩ | ⟨-, rfl⟩ := issueCommand_cases h
  · obtain ⟨c, -, rfl⟩ | ⟨u, hu, rfl⟩ := exec_cases hexec
    · exact hs.raiseError _ _ c
    · exact (hu.holdsKey hs).complete
  · exact hs.raiseError _ _ _

/-- Every action keeps the meaning of KEY_VALID; a reset leaves it 0. -/
theorem Effect.holdsKey {s t : State} {a : HostAction} (h : Effect s a t) (hs : s.HoldsKey) : t.HoldsKey := by
  cases h with
  | command v t hv => exact issueCommand_holdsKey hs hv
  | register n v => rw [regStore_eq]; exact hs.congr rfl rfl rfl rfl
  | regRead | bufRead | bufWrite => exact hs.congr rfl rfl rfl rfl
  | reset d => exact fun hvalid => by cases hvalid

/-- Settles O50: only KEY_EXPAND writes the slot while KEY_VALID stays 1, and it writes a whole schedule. -/
theorem everyStepKeepsAWholeKeyInTheSlot : Obligations.EveryStepKeepsAWholeKeyInTheSlot := by
  intro s t hs h
  obtain ⟨-, rfl⟩ | ⟨a, rest, -, heffect⟩ := step_cases h
  · exact hs
  · exact heffect.holdsKey (hs.congr rfl rfl rfl rfl)

/-! ### Reset -/

/-- Settles O48: each clause is a value of `State.reset`. -/
theorem resetStateMeetsTheInvariant : Obligations.ResetStateMeetsTheInvariant := by
  refine ⟨?_, fun hvalid => (by cases hvalid), by decide⟩
  exact { cfg := by decide, status := Status.reset_legal, bufForm := by decide, bufRange := by decide,
          gfResult := by decide, outLen := by decide }

/-- No write of a command clears KEY_VALID (10_state.md R38). -/
theorem Commit.keyValid {s u : State} {i : Instr} (h : Commit s i u) (hs : s.status.keyValid = true) :
    u.status.keyValid = true := by
  cases h with
  | key => rfl
  | nop | gf | st | store | output => exact hs

/-- A command word clears neither ERR_SEEN nor KEY_VALID (10_state.md R53, 70_reset_and_hazards.md R372). -/
theorem issueCommand_sticky {v : Word} {s t : State} (h : issueCommand v s = .next t) :
    (s.status.errSeen = true → t.status.errSeen = true) ∧ (s.status.keyValid = true → t.status.keyValid = true) := by
  obtain ⟨i, -, hexec⟩ | ⟨-, rfl⟩ := issueCommand_cases h
  · obtain ⟨c, -, rfl⟩ | ⟨u, hu, rfl⟩ := exec_cases hexec
    · exact ⟨fun _ => rfl, id⟩
    · exact ⟨hu.errSeen_eq.trans, hu.keyValid⟩
  · exact ⟨fun _ => rfl, id⟩

/-- Settles O51: of the actions other than the reset event only a command word writes STATUS. -/
theorem onlyResetClearsKeyValidAndErrSeen : Obligations.OnlyResetClearsKeyValidAndErrSeen := by
  intro s t a rest hpending hreset h
  obtain ⟨hnil, -⟩ | ⟨a', rest', hpending', heffect⟩ := step_cases h
  · simp [hnil] at hpending
  · cases hpending.symm.trans hpending'
    cases heffect with
    | command v t hv => exact issueCommand_sticky (s := { s with pending := rest }) hv
    | register n v => rw [regStore_eq]; exact ⟨id, id⟩
    | regRead | bufRead | bufWrite => exact ⟨id, id⟩
    | reset d => exact absurd rfl (hreset d)

/-! ### Progress -/

/-- An idle block takes every action of the interface (70_reset_and_hazards.md R376, 20_memory.md R73). -/
theorem idleAction_next {a : HostAction} {s : State} (ha : a.wf s.cfg = true) : ∃ t, idleAction a s = .next t := by
  cases a with
  | regWrite n v =>
    by_cases hn : n = regCmd
    · rw [hn]
      exact issueCommand_next v s
    · exact ⟨_, if_neg hn⟩
  | regRead n => exact ⟨_, rfl⟩
  | bufWrite x v => exact ⟨_, idleAction_bufWrite_of_lt (of_decide_eq_true ha) v⟩
  | bufRead x => exact ⟨_, idleAction_bufRead_of_lt (of_decide_eq_true ha)⟩
  | reset d => exact ⟨_, rfl⟩

/-- From a state of the invariant with actions of the interface pending, a step answers a next state of that kind. -/
theorem step_next {s : State} (hs : s.Inv) (hwf : ∀ a ∈ s.pending, a.wf s.cfg = true) :
    ∃ t, step s = .next t ∧ t.Inv ∧ ∀ a ∈ t.pending, a.wf t.cfg = true := by
  cases hp : s.pending with
  | nil => exact ⟨s, by rw [step, hp], hs, hwf⟩
  | cons a rest =>
    rw [hp] at hwf
    obtain ⟨t, ht⟩ := idleAction_next (s := { s with pending := rest }) (hwf a List.mem_cons_self)
    obtain ⟨hcfg, hpending⟩ := (idleAction_cases ht).cfg_pending
    refine ⟨t, (step_of_idle hs.status.busy hp).trans ht, (idleAction_cases ht).inv { hs with }, fun b hb => ?_⟩
    rw [hpending] at hb
    rw [hcfg]
    exact hwf b (List.mem_cons_of_mem _ hb)

/-- A run is a step and a run of what it answers. -/
theorem run_succ_of_step {M : Host.Core} {s t : M.State} (h : M.step s = .next t) (n : Nat) :
    M.run (n + 1) s = M.run n t := by
  rw [Host.Core.run, h]

/-- Settles O52: by induction on the number of steps, with `step_next`. -/
theorem noActionOfTheInterfaceStopsTheBlock : Obligations.NoActionOfTheInterfaceStopsTheBlock := by
  intro n
  induction n with
  | zero => exact fun s hs _ => ⟨s, rfl, hs⟩
  | succ n ih =>
    intro s hs hwf
    obtain ⟨t, ht, hinv, hpending⟩ := step_next hs hwf
    obtain ⟨u, hu, huInv⟩ := ih t hinv hpending
    exact ⟨u, (run_succ_of_step (M := core) ht n).trans hu, huInv⟩

end Sys2Proof.Machine
end

section
/-!
The field GF(2^8) (40_gf256.md). The idea behind its laws: gmul is linear in each argument over exclusive-or, and every
byte is an exclusive-or of the eight bytes with one bit set, so a law between linear functions needs those eight only.
-/

namespace Sys2Proof.Machine

open Sys2Proof.Claim

/-! ### Linear functions on bytes -/

theorem xor_left_comm (x y z : Byte) : x ^^^ (y ^^^ z) = y ^^^ (x ^^^ z) := by
  rw [← BitVec.xor_assoc, BitVec.xor_comm x, BitVec.xor_assoc]

/-- The function adds as exclusive-or does (40_gf256.md R141). -/
def XorLinear (f : Byte → Byte) : Prop := ∀ x y, f (x ^^^ y) = f x ^^^ f y

theorem XorLinear.comp {f g : Byte → Byte} (hf : XorLinear f) (hg : XorLinear g) : XorLinear fun x => f (g x) :=
  fun x y => by simp only [hg x y, hf (g x)]

/-- The byte with bit `i` alone: the power `x^i` (40_gf256.md R140). -/
def bitByte (i : Nat) : Byte := BitVec.twoPow 8 i

/-- The powers of x that a byte adds up (40_gf256.md R140). -/
def bitBytes (v : Byte) : List Byte := ((List.range 8).filter fun i => v.getLsbD i).map bitByte

theorem foldr_xor_bitBytes : ∀ v : Byte, (bitBytes v).foldr (· ^^^ ·) 0 = v := by decide +kernel

theorem XorLinear.map_zero {f : Byte → Byte} (hf : XorLinear f) : f 0 = 0 := by
  have h := hf 0 0
  rwa [BitVec.xor_self, BitVec.xor_self] at h

theorem XorLinear.map_foldr {f : Byte → Byte} (hf : XorLinear f) (l : List Byte) :
    f (l.foldr (· ^^^ ·) 0) = (l.map f).foldr (· ^^^ ·) 0 := by
  induction l with
  | nil => exact hf.map_zero
  | cons x l ih => rw [List.foldr_cons, hf, ih, List.map_cons, List.foldr_cons]

/-- Linear functions that agree on the powers of x agree on every byte. -/
theorem XorLinear.ext {f g : Byte → Byte} (hf : XorLinear f) (hg : XorLinear g)
    (h : ∀ i < 8, f (bitByte i) = g (bitByte i)) (v : Byte) : f v = g v := by
  have hmap : (bitBytes v).map f = (bitBytes v).map g := by
    rw [bitBytes, List.map_map, List.map_map]
    refine List.map_congr_left fun i hi => h i ?_
    exact List.mem_range.mp (List.mem_filter.mp hi).1
  rw [← foldr_xor_bitBytes v, hf.map_foldr, hg.map_foldr, hmap]

/-! ### dbl and gmul are linear -/

theorem dbl_eq_shift_xor (a : Byte) : dbl a = a <<< 1 ^^^ if a.getLsbD 7 then 0x1B else 0 := by
  unfold dbl
  split <;> simp

theorem dbl_xorLinear : XorLinear dbl := by
  intro x y
  rw [dbl_eq_shift_xor, dbl_eq_shift_xor, dbl_eq_shift_xor, BitVec.shiftLeft_xor_distrib, BitVec.getLsbD_xor]
  cases x.getLsbD 7 <;> cases y.getLsbD 7 <;> simp [BitVec.xor_assoc, BitVec.xor_comm, xor_left_comm]

/-- The loop of gmul is linear in the bits of `b` (40_gf256.md R143). -/
theorem foldl_gmulStep_xor_right (b c r r' t : Byte) (l : List Nat) :
    (l.foldl (gmulStep (b ^^^ c)) (r ^^^ r', t)).1 =
      (l.foldl (gmulStep b) (r, t)).1 ^^^ (l.foldl (gmulStep c) (r', t)).1 := by
  induction l generalizing r r' t with
  | nil => rfl
  | cons i l ih =>
    simp only [List.foldl_cons, gmulStep]
    rw [← ih, BitVec.getLsbD_xor]
    congr 3
    cases b.getLsbD i <;> cases c.getLsbD i <;>
      simp [BitVec.xor_assoc, BitVec.xor_comm, xor_left_comm]

/-- The loop of gmul is linear in the doubled operand (40_gf256.md R143). -/
theorem foldl_gmulStep_xor_left (b r r' t t' : Byte) (l : List Nat) :
    (l.foldl (gmulStep b) (r ^^^ r', t ^^^ t')).1 =
      (l.foldl (gmulStep b) (r, t)).1 ^^^ (l.foldl (gmulStep b) (r', t')).1 := by
  induction l generalizing r r' t t' with
  | nil => rfl
  | cons i l ih =>
    simp only [List.foldl_cons, gmulStep]
    rw [← ih, dbl_xorLinear]
    congr 3
    cases b.getLsbD i <;> simp [BitVec.xor_assoc, xor_left_comm]

theorem gmul_xorLinear_right (a : Byte) : XorLinear fun b => gmul a b := fun b c =>
  foldl_gmulStep_xor_right b c 0 0 a _

theorem gmul_xorLinear_left (b : Byte) : XorLinear fun a => gmul a b := fun x y =>
  foldl_gmulStep_xor_left b 0 0 x y _

/-! ### The laws of gmul -/

theorem gmul_comm (a b : Byte) : gmul a b = gmul b a := by
  refine (gmul_xorLinear_left b).ext (gmul_xorLinear_right b) (fun i hi => ?_) a
  refine (gmul_xorLinear_right (bitByte i)).ext (gmul_xorLinear_left (bitByte i)) (fun j hj => ?_) b
  revert i j
  decide +kernel

theorem gmul_assoc (a b c : Byte) : gmul a (gmul b c) = gmul (gmul a b) c := by
  refine (gmul_xorLinear_left (gmul b c)).ext ((gmul_xorLinear_left c).comp (gmul_xorLinear_left b))
    (fun i hi => ?_) a
  refine ((gmul_xorLinear_right (bitByte i)).comp (gmul_xorLinear_left c)).ext
    ((gmul_xorLinear_left c).comp (gmul_xorLinear_right (bitByte i))) (fun j hj => ?_) b
  refine ((gmul_xorLinear_right (bitByte i)).comp (gmul_xorLinear_right (bitByte j))).ext
    (gmul_xorLinear_right (gmul (bitByte i) (bitByte j))) (fun k hk => ?_) c
  revert i j k
  decide +kernel

theorem gmul_one (a : Byte) : gmul a 0x01 = a := by
  revert a
  decide +kernel

theorem gmul_zero (a : Byte) : gmul a 0x00 = 0x00 := (gmul_xorLinear_right a).map_zero

theorem gmul_two (a : Byte) : gmul a 0x02 = dbl a := by
  revert a
  decide +kernel

/-- The inverse of a non-zero byte, read from its entry in S: that entry is an affine image of the inverse
(40_gf256.md R145), and this is the affine map back. -/
def gfInverse (a : Byte) : Byte :=
  (sbox a).rotateLeft 1 ^^^ (sbox a).rotateLeft 3 ^^^ (sbox a).rotateLeft 6 ^^^ 0x05

theorem gmul_gfInverse : ∀ a : Byte, a ≠ 0 → gmul a (gfInverse a) = 0x01 := by decide +kernel

/-- A byte has at most one inverse. -/
theorem eq_of_gmul_eq_one {a x y : Byte} (hx : gmul a x = 0x01) (hy : gmul a y = 0x01) : x = y :=
  calc x = gmul x (gmul a y) := by rw [hy, gmul_one]
    _ = gmul (gmul a x) y := by rw [gmul_assoc, gmul_comm x a]
    _ = y := by rw [hx, gmul_comm, gmul_one]

/-- Settles O7: the laws on the powers of x, by linearity, and the inverse by evaluation of its 255 cases. -/
theorem gmulIsAFieldMultiplication : Obligations.GmulIsAFieldMultiplication := by
  refine ⟨gmul_comm, gmul_one, gmul_zero, gmul_two, fun a b c => gmul_xorLinear_right a b c, gmul_assoc,
    fun a ha => ⟨gfInverse a, gmul_gfInverse a ha, fun x hx => eq_of_gmul_eq_one hx (gmul_gfInverse a ha)⟩, ?_, ?_⟩ <;>
    decide +kernel

/-! ### Tables and commands -/

theorem sbox_rows : ∀ hi, hi < 16 → ∀ lo, lo < 16 →
    sbox (BitVec.ofNat 8 (16 * hi + lo)) = entry printedS hi lo ∧
    invSbox (BitVec.ofNat 8 (16 * hi + lo)) = entry printedInvS hi lo := by
  decide +kernel

theorem invSbox_sbox : ∀ a : Byte, invSbox (sbox a) = a := by decide +kernel

theorem sbox_invSbox : ∀ a : Byte, sbox (invSbox a) = a := by decide +kernel

theorem sbox_ne_self : ∀ a : Byte, sbox a ≠ a := by decide +kernel

/-- Settles O8: each of the 256 entries is compared, and each of the 256 bytes taken there and back. -/
theorem substitutionTablesAreInverse : Obligations.SubstitutionTablesAreInverse :=
  ⟨fun hi lo hhi hlo => sbox_rows hi hhi lo hlo, fun a => ⟨invSbox_sbox a, sbox_invSbox a, sbox_ne_self a⟩⟩

/-- Settles O9: the top bit is bit 7, and each of the nine doublings evaluates. -/
theorem roundConstantsArePowersOfX : Obligations.RoundConstantsArePowersOfX := by
  refine ⟨fun a => by rw [dbl, BitVec.msb_eq_getLsbD_last]; rfl, rfl, fun i h1 h9 => ?_⟩
  interval_cases i <;> decide

/-- GF_RCON of an index of the table completes (40_gf256.md R155). -/
theorem execGfRcon_of_index {i : Byte} (h1 : 1 ≤ i.toNat) (h10 : i.toNat ≤ 10) (s : State) :
    execGfRcon i s = .next (s.setGfResult (rcon i.toNat)).complete := by
  rw [execGfRcon, firstError_cons, badRconIndex_eq_false.mpr ⟨h1, h10⟩]
  rfl

/-- Settles O6: the commands make no check, but GF_RCON one that its index passes. -/
theorem gfCommandsPutTheirByteInGfResult : Obligations.GfCommandsPutTheirByteInGfResult := by
  intro a b s
  exact ⟨rfl, rfl, rfl, rfl, rfl, fun h1 h10 => execGfRcon_of_index h1 h10 s⟩

end Sys2Proof.Machine
end

section
/-!
The round transforms (42_round_transform.md R201 to R209) and the block cipher that they make up (43_block_cipher.md
R244). A product with a constant of the two matrices is a sum of doublings (R206, R207), dbl is linear, and every
identity on a column then only reorders and cancels summands.
-/

namespace Sys2Proof.Machine

open Sys2Proof.Claim

/-! ### The matrices -/

theorem dbl_xor (x y : Byte) : dbl (x ^^^ y) = dbl x ^^^ dbl y := dbl_xorLinear x y

theorem one_gmul (x : Byte) : gmul 1 x = x := by rw [gmul_comm]; exact gmul_one x

theorem two_gmul (x : Byte) : gmul 2 x = dbl x := by rw [gmul_comm]; exact gmul_two x

theorem gmul_xor_left (a b x : Byte) : gmul (a ^^^ b) x = gmul a x ^^^ gmul b x := gmul_xorLinear_left x a b

theorem three_gmul (x : Byte) : gmul 3 x = dbl x ^^^ x := by
  rw [show (3 : Byte) = 2 ^^^ 1 by decide, gmul_xor_left, two_gmul, one_gmul]

theorem four_gmul (x : Byte) : gmul 4 x = dbl (dbl x) := by
  rw [show (4 : Byte) = gmul 2 2 by decide +kernel, ← gmul_assoc, two_gmul, two_gmul]

theorem eight_gmul (x : Byte) : gmul 8 x = dbl (dbl (dbl x)) := by
  rw [show (8 : Byte) = gmul 2 4 by decide +kernel, ← gmul_assoc, two_gmul, four_gmul]

theorem nine_gmul (x : Byte) : gmul 0x09 x = dbl (dbl (dbl x)) ^^^ x := by
  rw [show (0x09 : Byte) = 8 ^^^ 1 by decide, gmul_xor_left, eight_gmul, one_gmul]

theorem eleven_gmul (x : Byte) : gmul 0x0B x = dbl (dbl (dbl x)) ^^^ (dbl x ^^^ x) := by
  rw [show (0x0B : Byte) = 8 ^^^ 3 by decide, gmul_xor_left, eight_gmul, three_gmul]

theorem thirteen_gmul (x : Byte) : gmul 0x0D x = dbl (dbl (dbl x)) ^^^ (dbl (dbl x) ^^^ x) := by
  rw [show (0x0D : Byte) = 8 ^^^ (4 ^^^ 1) by decide, gmul_xor_left, gmul_xor_left, eight_gmul, four_gmul, one_gmul]

theorem fourteen_gmul (x : Byte) : gmul 0x0E x = dbl (dbl (dbl x)) ^^^ (dbl (dbl x) ^^^ dbl x) := by
  rw [show (0x0E : Byte) = 8 ^^^ (4 ^^^ 2) by decide, gmul_xor_left, gmul_xor_left, eight_gmul, four_gmul, two_gmul]

/-- MixColumn is the product with the rows of (2, 3, 1, 1) (42_round_transform.md R206). -/
theorem mixColumn_eq_matrix (w : Column) : mixColumn w =
    ⟨gmul 2 w.r0 ^^^ gmul 3 w.r1 ^^^ gmul 1 w.r2 ^^^ gmul 1 w.r3,
     gmul 1 w.r0 ^^^ gmul 2 w.r1 ^^^ gmul 3 w.r2 ^^^ gmul 1 w.r3,
     gmul 1 w.r0 ^^^ gmul 1 w.r1 ^^^ gmul 2 w.r2 ^^^ gmul 3 w.r3,
     gmul 3 w.r0 ^^^ gmul 1 w.r1 ^^^ gmul 1 w.r2 ^^^ gmul 2 w.r3⟩ := by
  simp only [mixColumn, one_gmul, two_gmul, three_gmul, dbl_xor, Column.mk.injEq]
  refine ⟨?_, ?_, ?_, ?_⟩ <;>
    simp [BitVec.xor_assoc, BitVec.xor_comm, xor_left_comm]

/-- MixColumn is linear (42_round_transform.md R209). -/
theorem mixColumn_xor (x y : Column) : mixColumn (x.xor y) = (mixColumn x).xor (mixColumn y) := by
  simp only [mixColumn, Column.xor, dbl_xor, Column.mk.injEq]
  refine ⟨?_, ?_, ?_, ?_⟩ <;>
    simp [BitVec.xor_assoc, BitVec.xor_comm, xor_left_comm]

/-- InvMixColumn as MixColumn and a correction that depends on the sums of rows two apart (42_round_transform.md
R207). -/
theorem invMixColumn_eq_xor (w : Column) : invMixColumn w = (mixColumn w).xor
    (mixColumn ⟨dbl (dbl (w.r0 ^^^ w.r2)), dbl (dbl (w.r1 ^^^ w.r3)), dbl (dbl (w.r0 ^^^ w.r2)),
      dbl (dbl (w.r1 ^^^ w.r3))⟩) := by
  rw [← mixColumn_xor]
  rfl

/-- InvMixColumn is the product with the rows of (0E, 0B, 0D, 09) (42_round_transform.md R207). -/
theorem invMixColumn_eq_matrix (w : Column) : invMixColumn w =
    ⟨gmul 0x0E w.r0 ^^^ gmul 0x0B w.r1 ^^^ gmul 0x0D w.r2 ^^^ gmul 0x09 w.r3,
     gmul 0x09 w.r0 ^^^ gmul 0x0E w.r1 ^^^ gmul 0x0B w.r2 ^^^ gmul 0x0D w.r3,
     gmul 0x0D w.r0 ^^^ gmul 0x09 w.r1 ^^^ gmul 0x0E w.r2 ^^^ gmul 0x0B w.r3,
     gmul 0x0B w.r0 ^^^ gmul 0x0D w.r1 ^^^ gmul 0x09 w.r2 ^^^ gmul 0x0E w.r3⟩ := by
  simp only [invMixColumn_eq_xor, mixColumn_eq_matrix, Column.xor, one_gmul, two_gmul, three_gmul, nine_gmul,
    eleven_gmul, thirteen_gmul, fourteen_gmul, dbl_xor, Column.mk.injEq]
  refine ⟨?_, ?_, ?_, ?_⟩ <;>
    simp [BitVec.xor_assoc, BitVec.xor_comm, xor_left_comm]

/-- The eight products of one column (42_round_transform.md R206, R207). -/
theorem mixColumn_products (w : Column) :
    (mixColumn w).r0 = gmul 2 w.r0 ^^^ gmul 3 w.r1 ^^^ gmul 1 w.r2 ^^^ gmul 1 w.r3 ∧
    (mixColumn w).r1 = gmul 1 w.r0 ^^^ gmul 2 w.r1 ^^^ gmul 3 w.r2 ^^^ gmul 1 w.r3 ∧
    (mixColumn w).r2 = gmul 1 w.r0 ^^^ gmul 1 w.r1 ^^^ gmul 2 w.r2 ^^^ gmul 3 w.r3 ∧
    (mixColumn w).r3 = gmul 3 w.r0 ^^^ gmul 1 w.r1 ^^^ gmul 1 w.r2 ^^^ gmul 2 w.r3 ∧
    (invMixColumn w).r0 = gmul 0x0E w.r0 ^^^ gmul 0x0B w.r1 ^^^ gmul 0x0D w.r2 ^^^ gmul 0x09 w.r3 ∧
    (invMixColumn w).r1 = gmul 0x09 w.r0 ^^^ gmul 0x0E w.r1 ^^^ gmul 0x0B w.r2 ^^^ gmul 0x0D w.r3 ∧
    (invMixColumn w).r2 = gmul 0x0D w.r0 ^^^ gmul 0x09 w.r1 ^^^ gmul 0x0E w.r2 ^^^ gmul 0x0B w.r3 ∧
    (invMixColumn w).r3 = gmul 0x0B w.r0 ^^^ gmul 0x0D w.r1 ^^^ gmul 0x09 w.r2 ^^^ gmul 0x0E w.r3 := by
  rw [mixColumn_eq_matrix, invMixColumn_eq_matrix]
  exact ⟨rfl, rfl, rfl, rfl, rfl, rfl, rfl, rfl⟩

/-- Settles O17: the cells of column `c` are the rows of that column's own transform. -/
theorem mixColumnsMultipliesByTheFixedMatrix : Obligations.MixColumnsMultipliesByTheFixedMatrix := by
  intro b c hc
  interval_cases c
  · exact mixColumn_products b.c0
  · exact mixColumn_products b.c1
  · exact mixColumn_products b.c2
  · exact mixColumn_products b.c3

/-! ### The inverse laws -/

/-- MixColumn twice adds to each byte four times its sum with the byte two rows away (42_round_transform.md R207, where
it opens InvMixColumn). -/
theorem mixColumn_mixColumn (w : Column) : mixColumn (mixColumn w) =
    ⟨w.r0 ^^^ dbl (dbl (w.r0 ^^^ w.r2)), w.r1 ^^^ dbl (dbl (w.r1 ^^^ w.r3)), w.r2 ^^^ dbl (dbl (w.r0 ^^^ w.r2)),
     w.r3 ^^^ dbl (dbl (w.r1 ^^^ w.r3))⟩ := by
  simp only [mixColumn, dbl_xor, Column.mk.injEq]
  refine ⟨?_, ?_, ?_, ?_⟩ <;>
    simp [BitVec.xor_assoc, BitVec.xor_comm, xor_left_comm]

/-- InvMixColumn is MixColumn three times (42_round_transform.md R207). -/
theorem invMixColumn_eq (w : Column) : invMixColumn w = mixColumn (mixColumn (mixColumn w)) := by
  rw [mixColumn_mixColumn w]
  rfl

/-- MixColumn has order four (42_round_transform.md R209). -/
theorem mixColumn_four_times (w : Column) : mixColumn (mixColumn (mixColumn (mixColumn w))) = w := by
  rw [mixColumn_mixColumn (mixColumn (mixColumn w)), mixColumn_mixColumn w]
  simp [dbl_xor, BitVec.xor_assoc]

@[simp] theorem invMixColumn_mixColumn (w : Column) : invMixColumn (mixColumn w) = w := by
  rw [invMixColumn_eq, mixColumn_four_times]

@[simp] theorem mixColumn_invMixColumn (w : Column) : mixColumn (invMixColumn w) = w := by
  rw [invMixColumn_eq, mixColumn_four_times]

theorem mixColumns_xor (x y : Block) : mixColumns (x.xor y) = (mixColumns x).xor (mixColumns y) := by
  simp [mixColumns, Block.xor, mixColumn_xor]

@[simp] theorem invMixColumns_mixColumns (b : Block) : invMixColumns (mixColumns b) = b := by
  simp [invMixColumns, mixColumns]

@[simp] theorem mixColumns_invMixColumns (b : Block) : mixColumns (invMixColumns b) = b := by
  simp [invMixColumns, mixColumns]

@[simp] theorem invSubBytes_subBytes (b : Block) : invSubBytes (subBytes b) = b := by
  simp [invSubBytes, subBytes, mapBytes, invSbox_sbox]

@[simp] theorem subBytes_invSubBytes (b : Block) : subBytes (invSubBytes b) = b := by
  simp [invSubBytes, subBytes, mapBytes, sbox_invSbox]

@[simp] theorem invShiftRows_shiftRows (b : Block) : invShiftRows (shiftRows b) = b := rfl

@[simp] theorem addRoundKey_addRoundKey (b k : Block) : addRoundKey (addRoundKey b k) k = b := Block.xor_self_right b k

/-- Settles O18: each law by its own lemma. -/
theorem transformsUndoTheirInverses : Obligations.TransformsUndoTheirInverses := by
  intro b k x
  exact ⟨invSubBytes_subBytes b, subBytes_invSubBytes b, invShiftRows_shiftRows b, shiftRows_invShiftRows b,
    invMixColumns_mixColumns b, mixColumns_invMixColumns b, addRoundKey_addRoundKey b k, rfl, mixColumns_xor b x⟩

/-- Settles O15: seven of the commands make no check, and ADD_ROUND_KEY two that its premises pass. -/
theorem roundCommandsTransformTheStateRegister : Obligations.RoundCommandsTransformTheStateRegister := by
  intro s
  refine ⟨rfl, rfl, rfl, rfl, rfl, rfl, rfl, fun r hkey hr => ?_⟩
  rw [exec_addRoundKey, execAddRoundKey, firstError_cons, firstError_cons, noKey_eq_false.mpr hkey,
    aboveNr_eq_false.mpr hr]
  rfl

/-! ### Decryption -/

@[simp] theorem decRound_encRound (rk : RoundKeys) (w : Block) (i : Nat) : decRound rk (encRound rk w i) i = w := by
  simp [decRound, encRound]

@[simp] theorem encRound_decRound (rk : RoundKeys) (w : Block) (i : Nat) : encRound rk (decRound rk w i) i = w := by
  simp [decRound, encRound]

/-- Rounds that are undone one by one, the last one first, are undone altogether (43_block_cipher.md R243). -/
theorem foldl_reverse_foldl {f g : Block → Nat → Block} (h : ∀ w i, g (f w i) i = w) (l : List Nat) (w : Block) :
    l.reverse.foldl g (l.foldl f w) = w := by
  induction l generalizing w with
  | nil => rfl
  | cons i l ih => rw [List.foldl_cons, List.reverse_cons, List.foldl_append, ih, List.foldl_cons, List.foldl_nil, h]

/-- Rounds made again in order after they were undone, the last one first (43_block_cipher.md R241). -/
theorem foldl_foldl_reverse {f g : Block → Nat → Block} (h : ∀ w i, f (g w i) i = w) (l : List Nat) (w : Block) :
    l.foldl f (l.reverse.foldl g w) = w := by
  simpa using foldl_reverse_foldl h l.reverse w

theorem decryptBlock_encryptBlock (rk : RoundKeys) (nr : Nat) (b : Block) :
    decryptBlock rk nr (encryptBlock rk nr b) = b := by
  simp only [decryptBlock, encryptBlock, addRoundKey_addRoundKey, foldl_reverse_foldl (decRound_encRound rk),
    invShiftRows_shiftRows, invSubBytes_subBytes]

theorem encryptBlock_decryptBlock (rk : RoundKeys) (nr : Nat) (b : Block) :
    encryptBlock rk nr (decryptBlock rk nr b) = b := by
  simp only [decryptBlock, encryptBlock, addRoundKey_addRoundKey, foldl_foldl_reverse (encRound_decRound rk),
    subBytes_invSubBytes, shiftRows_invShiftRows]

/-- Settles O20: each round of D undoes its round of E, and the rounds are undone in reverse order. -/
theorem decryptionUndoesEncryption : Obligations.DecryptionUndoesEncryption := fun rk nr =>
  ⟨decryptBlock_encryptBlock rk nr, encryptBlock_decryptBlock rk nr,
    Function.bijective_iff_has_inverse.mpr
      ⟨decryptBlock rk nr, decryptBlock_encryptBlock rk nr, encryptBlock_decryptBlock rk nr⟩⟩

end Sys2Proof.Machine
end

section
/-!
The key slot after KEY_EXPAND (41_key_schedule.md R176 to R180). The words of the expansion below Nk are the key cut
into fours, so as many of them as the key has, put together, are the key.
-/

namespace Sys2Proof.Machine

open Sys2Proof.Claim

/-- Round key `j` is made of four words in a row (41_key_schedule.md R176). -/
theorem keySchedule_getD {key : List Byte} {j : Nat} (hj : j ≤ roundsOf (key.length / 4)) :
    (keySchedule key).getD j .zero = roundKeyOf (expandKey key) j := by
  simp [keySchedule, Nat.lt_succ_of_le hj]

/-- The bytes of the first `n` words of an expansion. -/
def wordBytes (w : List Column) (n : Nat) : List Byte := (List.range n).flatMap fun i => (w.getD i .zero).toBytes

theorem wordBytes_succ (w : List Column) (n : Nat) :
    wordBytes w (n + 1) = wordBytes w n ++ (w.getD n .zero).toBytes := by
  simp [wordBytes, List.range_succ]

@[simp] theorem wordBytes_length (w : List Column) (n : Nat) : (wordBytes w n).length = 4 * n := by
  induction n with
  | zero => rfl
  | succ n ih => rw [wordBytes_succ, List.length_append, ih]; rfl

/-- Fewer words are the beginning of more words. -/
theorem take_wordBytes (w : List Column) {m n : Nat} (h : m ≤ n) : (wordBytes w n).take (4 * m) = wordBytes w m := by
  induction n, h using Nat.le_induction with
  | base => exact List.take_of_length_le (by simp)
  | succ n h ih => rw [wordBytes_succ, List.take_append_of_le_length (by simp; omega), ih]

/-- The first words of the expansion are the first bytes of the key (41_key_schedule.md R171). -/
theorem wordBytes_expandKey {key : List Byte} {n : Nat} (h : n ≤ key.length / 4) :
    wordBytes (expandKey key) n = key.take (4 * n) := by
  induction n with
  | zero => rfl
  | succ n ih => 
    rw [wordBytes_succ, ih (by omega), expandKey_getD_toBytes h, ← List.take_add]
    rfl

/-- RK[0] and RK[1] are the first eight words (41_key_schedule.md R176). -/
theorem roundKeyOf_zero_one (w : List Column) :
    (roundKeyOf w 0).toBytes ++ (roundKeyOf w 1).toBytes = wordBytes w 8 := rfl

/-- Settles O11: the first eight words, cut to the length of the key, are the key. -/
theorem roundKeysGroupTheWordsAndOpenWithTheKey : Obligations.RoundKeysGroupTheWordsAndOpenWithTheKey := by
  intro key hkey
  refine ⟨keySchedule_length key, fun j hj => ?_, ?_⟩
  · rw [keySchedule_getD hj]
    rfl
  · obtain ⟨hlen, -⟩ := keySizes hkey
    obtain ⟨h8, h1⟩ : key.length / 4 ≤ 8 ∧ 1 ≤ roundsOf (key.length / 4) := by
      obtain hkey | hkey | hkey := hkey <;> rw [hkey] <;> decide
    rw [keySchedule_getD (Nat.zero_le _), keySchedule_getD h1, roundKeyOf_zero_one]
    conv_rhs => rw [← hlen, take_wordBytes _ h8, wordBytes_expandKey le_rfl, hlen]
    rw [List.take_of_length_le (by omega), List.take_of_length_le (by omega)]

/-- A round key above those of the schedule is not replaced (41_key_schedule.md R180). -/
theorem roundKey_storeRoundKeys_of_lt {key : List Byte} {j : Nat} (hj : roundsOf (key.length / 4) < j)
    (rk : RoundKeys) : roundKey (storeRoundKeys (keySchedule key) rk) j = roundKey rk j := by
  by_cases hj15 : j < 15
  · rw [roundKey_storeRoundKeys _ _ hj15, List.getD_eq_default _ _ (by simp; omega)]
  · simp [roundKey, hj15]

@[simp] theorem keyInput_length (s : State) : (keyInput s).length = s.keyLen.toNat := by simp [keyInput]

/-- Settles O12: KEY_EXPAND loads the key that stands in BUF, and `loadKey` writes the slot alone. -/
theorem keyExpandLoadsTheKeySlot : Obligations.KeyExpandLoadsTheKeySlot := by
  intro s hlen hkey
  have hlegal : (keyInput s).length = 16 ∨ (keyInput s).length = 24 ∨ (keyInput s).length = 32 := by simpa using hlen
  have hnk := nk_loadKey hlegal s
  have hnr : (s.loadKey (keyInput s)).status.nr.toNat = roundsOf ((keyInput s).length / 4) := rounds_loadKey _ s
  refine ⟨(s.loadKey (keyInput s)).rk, (s.loadKey (keyInput s)).status.nk, (s.loadKey (keyInput s)).status.nr,
    exec_keyExpand_of_legal hlen hkey, ?_, by rw [hnk, hnr], fun j hj => ?_, fun j hj => ?_⟩
  · rw [hnk, keyInput_length]
    omega
  · exact roundKey_storeRoundKeys_of_le (hnr ▸ hj) s.rk
  · exact roundKey_storeRoundKeys_of_lt (hnr ▸ hj) s.rk

end Sys2Proof.Machine
end

section
/-!
What a command delivers in BUF (20_memory.md R72, 45_modes.md R284): the transfers of sixteen bytes, the block commands
and PAD and UNPAD. Each passes its checks by its premises, and what it stored reads back by `memRead_memWrite`.
-/

namespace Sys2Proof.Machine

open Sys2Proof.Claim

/-- Bytes stored in BUF stand there, and every other byte is as it was (20_memory.md R72). -/
theorem wrote_of_buf_eq {s t : State} (h : s.buf.wf) {a : Nat} {out : List Byte} (ht : t.buf = s.buf.writeBytes a out) :
    Wrote s t a out := by
  refine ⟨?_, fun x hx => ?_⟩
  · rw [State.memRead_congr (s := s.memWrite a out) ht]
    exact State.memRead_memWrite h a out
  · rw [ht]
    exact Memory.read_writeBytes_outside _ hx

/-- What a data command commits is what it delivers (45_modes.md R284). -/
theorem delivered_commitOutput {s : State} (h : s.buf.wf) (out : List Byte) :
    Delivered s (s.commitOutput out).complete out :=
  ⟨rfl, wrote_of_buf_eq h rfl⟩

/-- The regions of a command are in BUF exactly when those of the table of 20_memory.md R75 are. -/
theorem outOfRange_eq_false_iff_inBuf {i : Instr} {s : State} :
    outOfRange i s = false ↔ ∀ r ∈ regionsRead i s ++ regionsWritten i s, InBuf s r.1 r.2 := by
  simp only [outOfRange_eq_false, checkedRegions_eq, List.forall_mem_map]

/-- A block stored by a command that completes: it stands at DST_ADDR and nothing else but STATUS changes
(42_round_transform.md R211). -/
theorem stored_memWrite {s : State} (h : s.buf.wf) (b : Block) :
    (s.memWrite s.dstAddr.toNat b.toBytes).complete =
      { s with buf := (s.memWrite s.dstAddr.toNat b.toBytes).complete.buf, status := done s.status } ∧
    Wrote s (s.memWrite s.dstAddr.toNat b.toBytes).complete s.dstAddr.toNat b.toBytes :=
  ⟨rfl, wrote_of_buf_eq h rfl⟩

/-- RK_STORE of an index up to NR with a key loaded and room in BUF completes (41_key_schedule.md R181). -/
theorem exec_rkStore_of_ready {s : State} {r : BitVec 4} (hkey : s.status.keyValid = true)
    (hr : r.toNat ≤ s.status.nr.toNat) (hdst : InBuf s s.dstAddr 16) :
    exec (.rkStore r) s = .next (s.memWrite s.dstAddr.toNat (roundKey s.rk r.toNat).toBytes).complete := by
  have hrange : outOfRange (.rkStore r) s = false :=
    outOfRange_eq_false_iff_inBuf.mpr (by simpa [regionsRead, regionsWritten, isMode] using hdst)
  simp [execRkStore, runCommand, noKey_eq_false.mpr hkey, aboveNr_eq_false.mpr hr, hrange]

/-- STATE_STORE with room in BUF completes (42_round_transform.md R211). -/
theorem exec_stateStore_of_ready {s : State} (hdst : InBuf s s.dstAddr 16) :
    exec .stateStore s = .next (s.memWrite s.dstAddr.toNat s.st.toBytes).complete := by
  have hrange : outOfRange .stateStore s = false :=
    outOfRange_eq_false_iff_inBuf.mpr (by simpa [regionsRead, regionsWritten, isMode] using hdst)
  simp [execStateStore, runCommand, hrange]

/-- Settles O13: both commands pass their checks and store a block. -/
theorem storingSixteenBytesAtDstAddr : Obligations.StoringSixteenBytesAtDstAddr := by
  intro s hbuf hdst
  exact ⟨fun r hkey hr => ⟨_, exec_rkStore_of_ready hkey hr hdst, stored_memWrite hbuf _⟩,
    _, exec_stateStore_of_ready hdst, stored_memWrite hbuf _⟩

/-- Settles O14: the block of sixteen bytes has those bytes. -/
theorem stateLoadCopiesSixteenBytes : Obligations.StateLoadCopiesSixteenBytes := by
  intro s hsrc
  have hrange : outOfRange .stateLoad s = false :=
    outOfRange_eq_false_iff_inBuf.mpr (by simpa [regionsRead, regionsWritten, isMode] using hsrc)
  refine ⟨blockOf (s.memRead s.srcAddr.toNat 16), ?_, toBytes_blockOf (s.memRead_length _ 16)⟩
  rw [exec_stateLoad, execStateLoad, firstError_cons, hrange]
  rfl

/-- DEC_BLOCK with a key loaded, a block as its input and both regions in BUF delivers D of the block
(43_block_cipher.md R246). -/
theorem exec_decBlock_of_ready {s : State} (hkey : s.status.keyValid = true) (hlen : s.srcLen.toNat = 16)
    (hsrc : InBuf s s.srcAddr 16) (hdst : InBuf s s.dstAddr 16) :
    exec .decBlock s = .next (s.commitOutput (s.decrypt s.srcBlock).toBytes).complete := by
  have hrange : outOfRange .decBlock s = false :=
    outOfRange_eq_false_iff_inBuf.mpr (by simpa [regionsRead, regionsWritten] using ⟨hsrc, hdst⟩)
  rw [exec_decBlock, execDecBlock, blockErrors, firstError_cons, firstError_cons, firstError_cons,
    noKey_eq_false.mpr hkey, badBlockLength_eq_false.mpr hlen, hrange]
  rfl

/-- Settles O21: both commands commit E or D of the block that they read before they write. -/
theorem blockCommandsDeliverTheCipherBlock : Obligations.BlockCommandsDeliverTheCipherBlock := by
  intro s hbuf hkey hlen hsrc hdst
  have hlen16 : s.srcLen.toNat = 16 := by rw [hlen]; rfl
  exact ⟨⟨_, exec_encBlock_of_ready hkey hlen16 hsrc hdst, delivered_commitOutput hbuf _⟩,
    _, exec_decBlock_of_ready hkey hlen16 hsrc hdst, delivered_commitOutput hbuf _⟩

/-! ### Padding -/

/-- pad appends as many bytes as complete the block, each of them that number (44_padding.md R260). -/
theorem padData_eq (d : List Byte) : padData d = d ++ rep (padLen d.length) := rfl

/-- unpad undoes pad (44_padding.md R262). -/
theorem unpadData_padData (d : List Byte) : unpadData (padData d) = some d := by
  obtain ⟨h1, h16, -⟩ := padLen_spec d.length
  exact unpadData_eq_some_iff.mpr ⟨padLen d.length, h1, h16, padData_eq d⟩

/-- Settles O22: `unpadData_eq_some_iff` with the pad length, which is in 1..16. -/
theorem unpadAcceptsExactlyPaddedData : Obligations.UnpadAcceptsExactlyPaddedData := by
  refine ⟨fun x => ⟨unpadData_padData x, fun heq => ?_⟩, fun x => ?_, fun d y => unpadData_eq_some_iff, rfl, ?_,
    fun x hx => ?_⟩
  · have hlen := congrArg List.length heq
    have := (padLen_spec x.length).1
    rw [padData_length] at hlen
    omega
  · obtain ⟨h1, h16, hmod⟩ := padLen_spec x.length
    exact ⟨padLen x.length, h1, h16, padData_eq x, hmod⟩
  · exact unpadData_eq_some_iff.mpr ⟨16, by decide, by decide, rfl⟩
  · rw [padData_eq, hx]
    rfl

/-- Settles O23: PAD commits the padded input, and UNPAD what `unpadData` finds before the padding. -/
theorem paddingCommandsDeliverTheirData : Obligations.PaddingCommandsDeliverTheirData := by
  intro s hbuf hsrc
  refine ⟨fun hdst => ?_, fun y k hdst h1 h16 hinput => ?_⟩
  · have hrange : outOfRange .pad s = false :=
      outOfRange_eq_false_iff_inBuf.mpr (by simpa [regionsRead, regionsWritten] using ⟨hsrc, hdst⟩)
    have hout : padData s.srcData = input s ++ rep (16 - s.srcLen.toNat % 16) := by
      rw [padData_eq, s.srcData_length]
      rfl
    refine ⟨_, ?_, delivered_commitOutput hbuf _⟩
    rw [exec_pad, execPad, firstError_cons, hrange, hout]
    rfl
  · have hrange : outOfRange .unpad s = false :=
      outOfRange_eq_false_iff_inBuf.mpr (by simpa [regionsRead, regionsWritten] using ⟨hsrc, hdst⟩)
    have hout : unpadData s.srcData = some y := unpadData_eq_some_iff.mpr ⟨k, h1, h16, hinput⟩
    refine ⟨_, ?_, delivered_commitOutput hbuf y⟩
    rw [exec_unpad, execUnpad, firstError_cons, hrange, hout]
    rfl

end Sys2Proof.Machine
end

section
/-!
The chaining modes (45_modes.md). The data of a mode are cut into blocks and its output is the blocks of a loop put
together; cutting that output gives the blocks of the loop back (`fullBlocks_blockBytes`, `streamBlocks_streamOutput`),
so every claim about bytes becomes one about the list of blocks, by induction on it.
-/

namespace Sys2Proof.Machine

open Sys2Proof.Claim

/-! ### Cutting into blocks -/

theorem splitBlocks_getD_eq_blk {n i : Nat} (h : i < n) (d : List Byte) : (splitBlocks n d).getD i [] = blk d i :=
  splitBlocks_getD h d

theorem blk_length {d : List Byte} {i : Nat} (h : 16 * i + 16 ≤ d.length) : (blk d i).length = 16 := by
  simp [blk]
  omega

theorem fullBlocks_getD {d : List Byte} {i : Nat} (h : i < d.length / 16) :
    (fullBlocks d).getD i .zero = blockOf (blk d i) := by
  rw [← splitBlocks_getD_eq_blk h, fullBlocks, show Block.zero = blockOf [] from rfl, List.getD_map]

/-- The bytes of a full block are a sixteen-byte piece of the data (45_modes.md R280). -/
theorem fullBlocks_getD_toBytes {d : List Byte} {i : Nat} (h : i < d.length / 16) :
    ((fullBlocks d).getD i .zero).toBytes = blk d i := by
  rw [fullBlocks_getD h, toBytes_blockOf (blk_length (by omega))]

/-- The block before block `i`, with `b` before the first (45_modes.md R285). -/
theorem cons_getD_eq_ite {α : Type} (b z : α) (l : List α) (i : Nat) :
    (b :: l).getD i z = if i = 0 then b else l.getD (i - 1) z := by
  cases i <;> rfl

theorem cons_fullBlocks_getD (b : Block) {d : List Byte} {i : Nat} (h : i < d.length / 16) :
    (b :: fullBlocks d).getD i .zero = if i = 0 then b else blockOf (blk d (i - 1)) := by
  rw [cons_getD_eq_ite, fullBlocks_getD (by omega)]

/-- Whole blocks put together and cut again (45_modes.md R280). -/
@[simp] theorem fullBlocks_blockBytes (bs : List Block) : fullBlocks (blockBytes bs) = bs := by
  induction bs with
  | nil => rfl
  | cons b bs ih =>
    have hbytes : blockBytes (b :: bs) = b.toBytes ++ blockBytes bs := rfl
    have hcount : (b.toBytes ++ blockBytes bs).length / 16 = (blockBytes bs).length / 16 + 1 := by
      rw [List.length_append, Block.toBytes_length]
      omega
    rw [fullBlocks, hbytes, hcount, splitBlocks, List.take_left' b.toBytes_length, List.drop_left' b.toBytes_length,
      List.map_cons, blockOf_toBytes]
    exact congrArg _ ih

/-- Data of whole blocks cut and put together again (45_modes.md R280). -/
theorem blockBytes_fullBlocks {d : List Byte} (h : d.length % 16 = 0) : blockBytes (fullBlocks d) = d := by
  have hpieces : ∀ x ∈ splitBlocks (d.length / 16) d, (blockOf x).toBytes = x := fun x hx => by
    obtain ⟨i, hi, rfl⟩ := List.getElem_of_mem hx
    rw [splitBlocks_length] at hi
    rw [← List.getD_eq_getElem _ [], splitBlocks_getD_eq_blk hi]
    exact toBytes_blockOf (blk_length (by omega))
  rw [blockBytes, fullBlocks, List.map_map, List.map_congr_left (f := Block.toBytes ∘ blockOf) (g := id) hpieces,
    List.map_id, splitBlocks_flatten (by omega)]

theorem streamBlocks_getD {d : List Byte} {i : Nat} (h : 16 * i < d.length) : (streamBlocks d).getD i [] = blk d i :=
  splitBlocks_getD_eq_blk (by omega) d

theorem streamBlocks_flatten (d : List Byte) : (streamBlocks d).flatten = d := splitBlocks_flatten (by omega)

theorem cons_streamBlocks_getD (b : Block) {d : List Byte} {i : Nat} (h : 16 * i < d.length) :
    (b :: (streamBlocks d).map blockOf).getD i .zero = if i = 0 then b else blockOf (blk d (i - 1)) := by
  rw [cons_getD_eq_ite, show Block.zero = blockOf [] from rfl, List.getD_map, streamBlocks_getD (by omega)]

/-- Pieces as long as those of a cut are the cut of what they make up (45_modes.md R280). -/
theorem splitBlocks_flatten_of_lengths {n : Nat} {d : List Byte} {xs : List (List Byte)}
    (h : xs.map List.length = (splitBlocks n d).map List.length) : splitBlocks n xs.flatten = xs := by
  induction n generalizing d xs with
  | zero => exact (List.map_eq_nil_iff.mp h).symm
  | succ n ih =>
    obtain _ | ⟨x, xs⟩ := xs
    · simp [splitBlocks] at h
    · simp only [splitBlocks, List.map_cons, List.cons.injEq, List.length_take] at h
      obtain ⟨hx, hxs⟩ := h
      have hrest : x.length = 16 ∨ xs.flatten = [] := by
        by_cases hd : 16 ≤ d.length
        · exact .inl (by omega)
        · refine .inr (List.length_eq_zero_iff.mp ?_)
          have hzero : d.drop 16 = [] := List.drop_eq_nil_of_le (by omega)
          have hsum := splitBlocks_flatten (n := n) (d := d.drop 16) (by simp [hzero])
          rw [List.length_flatten, hxs, ← List.length_flatten, hsum, hzero]
          rfl
      rw [splitBlocks, List.flatten_cons]
      obtain hx16 | hnil := hrest
      · rw [List.take_left' hx16, List.drop_left' hx16, ih hxs]
      · rw [hnil, List.append_nil, List.take_of_length_le (by omega), List.drop_of_length_le (by omega), ← hnil, ih hxs]

section
variable {loop : List (List Byte) → List (List Byte)}
  (h : ∀ n d, (loop (splitBlocks n d)).map List.length = (splitBlocks n d).map List.length) (d : List Byte)
include h

/-- A stream mode's output cut again: the blocks of its loop (45_modes.md R283). -/
theorem streamBlocks_streamOutput : streamBlocks (streamOutput loop d) = loop (streamBlocks d) := by
  have hlen := streamOutput_length loop h d
  rw [streamBlocks, hlen]
  exact splitBlocks_flatten_of_lengths (h _ d)

/-- A block of a stream mode's output (45_modes.md R283). -/
theorem blk_streamOutput {i : Nat} (hi : 16 * i < d.length) :
    blk (streamOutput loop d) i = (loop (streamBlocks d)).getD i [] := by
  rw [← streamBlocks_getD (by rwa [streamOutput_length loop h]), streamBlocks_streamOutput h]

end

/-! ### The loops, block by block -/

theorem cbcEncrypt_getD (e : Block → Block) (prev : Block) {bs : List Block} {i : Nat} (hi : i < bs.length) :
    (cbcEncrypt e prev bs).getD i .zero =
      e ((bs.getD i .zero).xor ((prev :: cbcEncrypt e prev bs).getD i .zero)) := by
  induction bs generalizing prev i with
  | nil => simp at hi
  | cons b bs ih =>
    cases i with
    | zero => rfl
    | succ i => exact ih _ (Nat.lt_of_succ_lt_succ hi)

theorem pcbcEncrypt_getD (e : Block → Block) (prevC prevP : Block) {bs : List Block} {i : Nat} (hi : i < bs.length) :
    (pcbcEncrypt e prevC prevP bs).getD i .zero =
      e (((bs.getD i .zero).xor ((prevC :: pcbcEncrypt e prevC prevP bs).getD i .zero)).xor
        ((prevP :: bs).getD i .zero)) := by
  induction bs generalizing prevC prevP i with
  | nil => simp at hi
  | cons b bs ih =>
    cases i with
    | zero => rfl
    | succ i => exact ih _ _ (Nat.lt_of_succ_lt_succ hi)

/-- The blocks that satisfy the equations of R286 are those of the loop. -/
theorem eq_cbcDecrypt {d : Block → Block} {prev : Block} {cs ps : List Block} (hlen : ps.length = cs.length)
    (h : ∀ i < cs.length, ps.getD i .zero = (d (cs.getD i .zero)).xor ((prev :: cs).getD i .zero)) :
    ps = cbcDecrypt d prev cs := by
  induction cs generalizing prev ps with
  | nil => exact List.length_eq_zero_iff.mp hlen
  | cons c cs ih =>
    obtain _ | ⟨p, ps⟩ := ps
    · simp at hlen
    · have hp : p = (d c).xor prev := h 0 (Nat.succ_pos _)
      rw [cbcDecrypt, hp, ← ih (Nat.succ.inj hlen) fun i hi => h (i + 1) (Nat.succ_lt_succ hi)]

/-- The blocks that satisfy the equations of R288 are those of the loop. -/
theorem eq_pcbcDecrypt {d : Block → Block} {prevC prevP : Block} {cs ps : List Block} (hlen : ps.length = cs.length)
    (h : ∀ i < cs.length, ps.getD i .zero =
      ((d (cs.getD i .zero)).xor ((prevC :: cs).getD i .zero)).xor ((prevP :: ps).getD i .zero)) :
    ps = pcbcDecrypt d prevC prevP cs := by
  induction cs generalizing prevC prevP ps with
  | nil => exact List.length_eq_zero_iff.mp hlen
  | cons c cs ih =>
    obtain _ | ⟨p, ps⟩ := ps
    · simp at hlen
    · have hp : p = ((d c).xor prevC).xor prevP := h 0 (Nat.succ_pos _)
      rw [pcbcDecrypt, ← hp, ← ih (Nat.succ.inj hlen) fun i hi => h (i + 1) (Nat.succ_lt_succ hi)]

theorem cfbEncrypt_getD (e : Block → Block) (prev : Block) {xs : List (List Byte)} {i : Nat} (hi : i < xs.length) :
    (cfbEncrypt e prev xs).getD i [] =
      xorPrefix (xs.getD i []) (e ((prev :: (cfbEncrypt e prev xs).map blockOf).getD i .zero)) := by
  induction xs generalizing prev i with
  | nil => simp at hi
  | cons x xs ih =>
    cases i with
    | zero => rfl
    | succ i => exact ih _ (Nat.lt_of_succ_lt_succ hi)

theorem cfbDecrypt_getD (e : Block → Block) (prev : Block) {xs : List (List Byte)} {i : Nat} (hi : i < xs.length) :
    (cfbDecrypt e prev xs).getD i [] =
      xorPrefix (xs.getD i []) (e ((prev :: xs.map blockOf).getD i .zero)) := by
  induction xs generalizing prev i with
  | nil => simp at hi
  | cons x xs ih =>
    cases i with
    | zero => rfl
    | succ i => exact ih _ (Nat.lt_of_succ_lt_succ hi)

theorem ofbBlocks_getD (e : Block → Block) (k : Block) {xs : List (List Byte)} {i : Nat} (hi : i < xs.length) :
    (ofbBlocks e k xs).getD i [] = xorPrefix (xs.getD i []) (e^[i + 1] k) := by
  induction xs generalizing k i with
  | nil => simp at hi
  | cons x xs ih =>
    cases i with
    | zero => rfl
    | succ i => exact ih (e k) (Nat.lt_of_succ_lt_succ hi)

theorem ctrBlocks_getD (e : Block → Block) (nonce : Block) {xs : List (List Byte)} {i : Nat} (hi : i < xs.length) :
    (ctrBlocks e nonce xs).getD i [] = xorPrefix (xs.getD i []) (e (inc128^[i] nonce)) := by
  induction xs generalizing nonce i with
  | nil => simp at hi
  | cons x xs ih =>
    cases i with
    | zero => rfl
    | succ i => exact ih (inc128 nonce) (Nat.lt_of_succ_lt_succ hi)

/-! ### The mode commands -/

/-- What ENC_MODE m makes of the data `d` (45_modes.md R285, R287, R289, R291, R293). -/
def encOutput (m : ChainMode) (e : Block → Block) (iv : Block) (d : List Byte) : List Byte :=
  match m with
  | .cbc => paddedOutput (cbcEncrypt e iv) d
  | .pcbc => paddedOutput (pcbcEncrypt e iv .zero) d
  | .cfb => streamOutput (cfbEncrypt e iv) d
  | .ofb => streamOutput (ofbBlocks e iv) d
  | .ctr => streamOutput (ctrBlocks e iv) d

/-- What DEC_MODE m makes of the data `c`, `none` being a failing unpad (45_modes.md R286, R288, R290, R292, R294). -/
def decOutput (m : ChainMode) (e d : Block → Block) (iv : Block) (c : List Byte) : Option (List Byte) :=
  match m with
  | .cbc => unpaddedOutput (cbcDecrypt d iv) c
  | .pcbc => unpaddedOutput (pcbcDecrypt d iv .zero) c
  | .cfb => some (streamOutput (cfbDecrypt e iv) c)
  | .ofb => some (streamOutput (ofbBlocks e iv) c)
  | .ctr => some (streamOutput (ctrBlocks e iv) c)

/-- The modes that pad (45_modes.md R282). -/
def padsData : ChainMode → Bool
  | .cbc | .pcbc => true
  | .cfb | .ofb | .ctr => false

/-- The checks of DEC_MODE m (45_modes.md R281). -/
def decErrors (m : ChainMode) (s : State) : Option ErrCode :=
  if padsData m then paddedDecryptErrors (decMode m) s else modeErrors (decMode m) s

theorem exec_encMode (m : ChainMode) (s : State) : exec (encMode m) s =
    runDataCommand (encMode m) (modeErrors (encMode m) s) (some (encOutput m s.encrypt (ivBlock s) (input s))) s := by
  cases m <;> rfl

theorem exec_decMode (m : ChainMode) (s : State) : exec (decMode m) s =
    runDataCommand (decMode m) (decErrors m s) (decOutput m s.encrypt s.decrypt (ivBlock s) (input s)) s := by
  cases m <;> rfl

@[simp] theorem input_length (s : State) : (input s).length = s.srcLen.toNat := by simp [input]

/-- The length of an encryption's output (45_modes.md R282, R283). -/
theorem encOutput_length (m : ChainMode) (e : Block → Block) (iv : Block) (d : List Byte) :
    (encOutput m e iv d).length = d.length + if padsData m then padLen d.length else 0 := by
  cases m
  · exact paddedOutput_length _ (cbcEncrypt_length e iv) d
  · exact paddedOutput_length _ (pcbcEncrypt_length e iv .zero) d
  · exact streamOutput_length _ (cfbEncrypt_lengths e iv) d
  · exact streamOutput_length _ (ofbBlocks_lengths e iv) d
  · exact streamOutput_length _ (ctrBlocks_lengths e iv) d

theorem regionsRead_encMode (m : ChainMode) (s : State) :
    regionsRead (encMode m) s = [(s.srcAddr, s.srcLen.toNat), (s.ivAddr, 16)] := by
  cases m <;> rfl

theorem regionsRead_decMode (m : ChainMode) (s : State) :
    regionsRead (decMode m) s = [(s.srcAddr, s.srcLen.toNat), (s.ivAddr, 16)] := by
  cases m <;> rfl

theorem regionsWritten_encMode (m : ChainMode) (s : State) :
    regionsWritten (encMode m) s = [(s.dstAddr, s.srcLen.toNat + if padsData m then padLen s.srcLen.toNat else 0)] := by
  cases m <;> rfl

theorem regionsWritten_decMode (m : ChainMode) (s : State) :
    regionsWritten (decMode m) s = [(s.dstAddr, s.srcLen.toNat)] := by
  cases m <;> rfl

/-- ModeChecks pass exactly when the key, the IV's length and the regions do (45_modes.md R281). -/
theorem modeErrors_eq_none {i : Instr} {s : State} :
    modeErrors i s = none ↔ s.status.keyValid = true ∧ s.ivLen.toNat = 16 ∧ outOfRange i s = false := by
  rw [modeErrors, firstError_eq_none]
  simp

theorem paddedDecryptErrors_eq_none {i : Instr} {s : State} : paddedDecryptErrors i s = none ↔
    s.status.keyValid = true ∧ s.ivLen.toNat = 16 ∧ (s.srcLen.toNat ≠ 0 ∧ s.srcLen.toNat % 16 = 0) ∧
      outOfRange i s = false := by
  rw [paddedDecryptErrors, firstError_eq_none]
  simp

/-- The checks of an encryption pass exactly when its premises hold (45_modes.md R281). -/
theorem encErrors_eq_none {m : ChainMode} {s : State} : modeErrors (encMode m) s = none ↔
    ModeReady s ∧ InBuf s s.dstAddr (encOutput m s.encrypt (ivBlock s) (input s)).length := by
  rw [modeErrors_eq_none, outOfRange_eq_false_iff_inBuf, regionsRead_encMode, regionsWritten_encMode, encOutput_length,
    input_length]
  simp [BitVec.toNat_eq, and_assoc]

/-- The checks of a decryption pass exactly when its premises hold (45_modes.md R281, R282). -/
theorem decErrors_eq_none {m : ChainMode} {s : State} : decErrors m s = none ↔
    ModeReady s ∧ InBuf s s.dstAddr s.srcLen.toNat ∧
      (padsData m = true → s.srcLen.toNat ≠ 0 ∧ s.srcLen.toNat % 16 = 0) := by
  cases hm : padsData m with
  | false =>
    simp [decErrors, hm, modeErrors_eq_none, outOfRange_eq_false_iff_inBuf, regionsRead_decMode, regionsWritten_decMode,
      BitVec.toNat_eq, and_assoc]
  | true =>
    simp [decErrors, hm, paddedDecryptErrors_eq_none, outOfRange_eq_false_iff_inBuf, regionsRead_decMode,
      regionsWritten_decMode, BitVec.toNat_eq, and_assoc, and_comm, and_left_comm]

/-- An encryption whose premises hold commits its output and completes (45_modes.md R284). -/
theorem exec_encMode_of_ready {m : ChainMode} {s : State} (hready : ModeReady s)
    (hdst : InBuf s s.dstAddr (encOutput m s.encrypt (ivBlock s) (input s)).length) :
    exec (encMode m) s = .next (s.commitOutput (encOutput m s.encrypt (ivBlock s) (input s))).complete := by
  rw [exec_encMode, encErrors_eq_none.mpr ⟨hready, hdst⟩]
  rfl

/-- A decryption whose premises hold and whose unpad accepts commits its output and completes (45_modes.md R284). -/
theorem exec_decMode_of_ready {m : ChainMode} {s : State} (hready : ModeReady s)
    (hdst : InBuf s s.dstAddr s.srcLen.toNat)
    (hlen : padsData m = true → s.srcLen.toNat ≠ 0 ∧ s.srcLen.toNat % 16 = 0) {out : List Byte}
    (hout : decOutput m s.encrypt s.decrypt (ivBlock s) (input s) = some out) :
    exec (decMode m) s = .next (s.commitOutput out).complete := by
  rw [exec_decMode, decErrors_eq_none.mpr ⟨hready, hdst, hlen⟩, hout]
  rfl

/-! ### The equations of each mode -/

/-- The padded input of the statements (44_padding.md R260). -/
theorem padData_input (s : State) : padData (input s) = input s ++ rep (16 - s.srcLen.toNat % 16) := by
  rw [padData_eq, input_length]
  rfl

theorem padData_length_mod (d : List Byte) : (padData d).length % 16 = 0 := by
  rw [padData_length]
  exact (padLen_spec d.length).2.2

/-- A block of a padded encryption's output (45_modes.md R285, R287). -/
theorem blk_paddedOutput {loop : List Block → List Block} (h : ∀ l, (loop l).length = l.length) (d : List Byte)
    {i : Nat} (hi : 16 * i < (padData d).length) :
    blk (paddedOutput loop d) i = ((loop (fullBlocks (padData d))).getD i .zero).toBytes ∧
    ∀ b, (b :: loop (fullBlocks (padData d))).getD i .zero =
      if i = 0 then b else blockOf (blk (paddedOutput loop d) (i - 1)) := by
  have hmod := padData_length_mod d
  have hcount : i < (paddedOutput loop d).length / 16 := by
    rw [paddedOutput_length loop h, ← padData_length]
    omega
  have hblocks : fullBlocks (paddedOutput loop d) = loop (fullBlocks (padData d)) := fullBlocks_blockBytes _
  rw [← hblocks]
  exact ⟨(fullBlocks_getD_toBytes hcount).symm, fun b => cons_fullBlocks_getD b hcount⟩

/-- Settles O24: the blocks of the output are those of the loop over the blocks of the padded input. -/
theorem paddedEncryptionChainsItsBlocks : Obligations.PaddedEncryptionChainsItsBlocks := by
  intro s hbuf hready hdst
  simp only [← padData_input]
  have hcount {i : Nat} (hi : 16 * i < (padData (input s)).length) : i < (padData (input s)).length / 16 := by
    have := padData_length_mod (input s)
    omega
  have hlen (m : ChainMode) (hm : padsData m = true) :
      (encOutput m s.encrypt (ivBlock s) (input s)).length = (padData (input s)).length := by
    rw [encOutput_length, if_pos hm, padData_length]
  have hfit : InBuf s s.dstAddr (padData (input s)).length := by
    rw [padData_length, input_length]
    exact hdst
  refine ⟨⟨_, _, exec_encMode_of_ready (m := .cbc) hready (by rwa [hlen _ rfl]), delivered_commitOutput hbuf _,
      hlen .cbc rfl, fun i hi => ?_⟩,
    _, _, exec_encMode_of_ready (m := .pcbc) hready (by rwa [hlen _ rfl]), delivered_commitOutput hbuf _,
      hlen .pcbc rfl, fun i hi => ?_⟩
  · obtain ⟨hblk, hprev⟩ := blk_paddedOutput (cbcEncrypt_length s.encrypt (ivBlock s)) (input s) hi
    rw [encOutput, hblk, cbcEncrypt_getD _ _ (by simpa using hcount hi), hprev, fullBlocks_getD (hcount hi)]
  · obtain ⟨hblk, hprev⟩ := blk_paddedOutput (pcbcEncrypt_length s.encrypt (ivBlock s) .zero) (input s) hi
    rw [encOutput, hblk, pcbcEncrypt_getD _ _ _ (by simpa using hcount hi), hprev, fullBlocks_getD (hcount hi),
      cons_fullBlocks_getD _ (hcount hi)]

/-- What a padded decryption unpads, when the blocks `q` are those of its loop (45_modes.md R286, R288). -/
theorem unpaddedOutput_of_blocks {loop : List Block → List Block} {c q y : List Byte} {k : Nat}
    (hblocks : fullBlocks q = loop (fullBlocks c)) (hmod : q.length % 16 = 0) (h1 : 1 ≤ k) (h16 : k ≤ 16)
    (hq : q = y ++ rep k) : unpaddedOutput loop c = some y := by
  rw [unpaddedOutput, ← hblocks, blockBytes_fullBlocks hmod]
  exact unpadData_eq_some_iff.mpr ⟨k, h1, h16, hq⟩

/-- Settles O25: bytes whose blocks satisfy the equations are what the loop gives, and unpad takes their padding
away. -/
theorem paddedDecryptionRecoversItsBlocks : Obligations.PaddedDecryptionRecoversItsBlocks := by
  intro s q y k hbuf hready hdst hne hmod hqlen h1 h16 hq
  have hlen : q.length = (input s).length := by rw [hqlen, input_length]
  have hcount : (fullBlocks q).length = (fullBlocks (input s)).length := by simp [hqlen]
  have hi16 {i : Nat} (hi : i < (fullBlocks (input s)).length) :
      i < (input s).length / 16 ∧ i < q.length / 16 ∧ 16 * i < q.length := by
    rw [fullBlocks_length] at hi
    omega
  refine ⟨fun heq => ⟨_, exec_decMode_of_ready (m := .cbc) hready hdst (fun _ => ⟨hne, hmod⟩) ?_,
      delivered_commitOutput hbuf y⟩,
    fun heq => ⟨_, exec_decMode_of_ready (m := .pcbc) hready hdst (fun _ => ⟨hne, hmod⟩) ?_,
      delivered_commitOutput hbuf y⟩⟩ <;>
    refine unpaddedOutput_of_blocks ?_ (hqlen ▸ hmod) h1 h16 hq
  · refine eq_cbcDecrypt hcount fun i hi => ?_
    obtain ⟨hinput, hqi, hlt⟩ := hi16 hi
    rw [fullBlocks_getD hqi, heq i hlt, blockOf_toBytes, fullBlocks_getD hinput, cons_fullBlocks_getD _ hinput]
  · refine eq_pcbcDecrypt hcount fun i hi => ?_
    obtain ⟨hinput, hqi, hlt⟩ := hi16 hi
    rw [fullBlocks_getD hqi, heq i hlt, blockOf_toBytes, fullBlocks_getD hinput, cons_fullBlocks_getD _ hinput,
      cons_fullBlocks_getD _ hqi]

/-- A stream mode's command delivers an output as long as its input (45_modes.md R283). -/
theorem exec_encMode_stream {m : ChainMode} (hm : padsData m = false) {s : State} (hbuf : s.buf.wf)
    (hready : ModeReady s) (hdst : InBuf s s.dstAddr s.srcLen.toNat) :
    ∃ t, exec (encMode m) s = .next t ∧ Delivered s t (encOutput m s.encrypt (ivBlock s) (input s)) ∧
      (encOutput m s.encrypt (ivBlock s) (input s)).length = s.srcLen.toNat := by
  have hlen : (encOutput m s.encrypt (ivBlock s) (input s)).length = s.srcLen.toNat := by
    rw [encOutput_length, hm, input_length]
    rfl
  exact ⟨_, exec_encMode_of_ready hready (by rwa [hlen]), delivered_commitOutput hbuf _, hlen⟩

/-- The same of a stream mode's decryption, which unpads nothing (45_modes.md R283). -/
theorem exec_decMode_stream {m : ChainMode} (hm : padsData m = false) {s : State} (hbuf : s.buf.wf)
    (hready : ModeReady s) (hdst : InBuf s s.dstAddr s.srcLen.toNat) {out : List Byte}
    (hout : decOutput m s.encrypt s.decrypt (ivBlock s) (input s) = some out) :
    ∃ t, exec (decMode m) s = .next t ∧ Delivered s t out :=
  ⟨_, exec_decMode_of_ready hready hdst (by simp [hm]) hout, delivered_commitOutput hbuf _⟩

theorem streamBlocks_length (d : List Byte) : (streamBlocks d).length = (d.length + 15) / 16 :=
  splitBlocks_length _ d

/-- Settles O26: both outputs are cut into the blocks of their loops, and the previous ciphertext block is one of the
output in one direction and of the input in the other. -/
theorem cfbFeedsBackTheCiphertext : Obligations.CfbFeedsBackTheCiphertext := by
  intro s hbuf hready hdst
  have hin {i : Nat} (hi : 16 * i < s.srcLen.toNat) : 16 * i < (input s).length := by rwa [input_length]
  have hcount {i : Nat} (hi : 16 * i < s.srcLen.toNat) : i < (streamBlocks (input s)).length := by
    rw [streamBlocks_length, input_length]
    omega
  constructor
  · obtain ⟨t, ht, hdelivered, hlen⟩ := exec_encMode_stream (m := .cfb) rfl hbuf hready hdst
    refine ⟨t, _, ht, hdelivered, hlen, fun i hi => ?_⟩
    have hloop := cfbEncrypt_lengths s.encrypt (ivBlock s)
    rw [encOutput, blk_streamOutput hloop _ (hin hi), cfbEncrypt_getD _ _ (hcount hi), streamBlocks_getD (hin hi),
      ← streamBlocks_streamOutput hloop, cons_streamBlocks_getD _ (hlen.symm ▸ hi)]
    rfl
  · have hloop := cfbDecrypt_lengths s.encrypt (ivBlock s)
    obtain ⟨t, ht, hdelivered⟩ := exec_decMode_stream (m := .cfb) rfl hbuf hready hdst rfl
    refine ⟨t, _, ht, hdelivered, by rw [streamOutput_length _ hloop, input_length], fun i hi => ?_⟩
    rw [blk_streamOutput hloop _ (hin hi), cfbDecrypt_getD _ _ (hcount hi), streamBlocks_getD (hin hi),
      cons_streamBlocks_getD _ (hin hi)]
    rfl

/-- Settles O27: both commands run the loop over the keystream, whose block `i` is E iterated `i + 1` times. -/
theorem ofbChainsItsKeystream : Obligations.OfbChainsItsKeystream := by
  intro s i₀ hi₀ hbuf hready hdst
  have hloop := ofbBlocks_lengths s.encrypt (ivBlock s)
  obtain ⟨t, ht, hdelivered⟩ : ∃ t, exec i₀ s = .next t ∧
      Delivered s t (streamOutput (ofbBlocks s.encrypt (ivBlock s)) (input s)) := by
    obtain rfl | rfl := hi₀
    · obtain ⟨t, ht, hdelivered, -⟩ := exec_encMode_stream (m := .ofb) rfl hbuf hready hdst
      exact ⟨t, ht, hdelivered⟩
    · exact exec_decMode_stream (m := .ofb) rfl hbuf hready hdst rfl
  refine ⟨t, _, fun i => s.encrypt^[i + 1] (ivBlock s), ht, hdelivered,
    by rw [streamOutput_length _ hloop, input_length], rfl,
    fun i => Function.iterate_succ_apply' s.encrypt (i + 1) (ivBlock s), fun i hi => ?_⟩
  have hin : 16 * i < (input s).length := by rwa [input_length]
  rw [blk_streamOutput hloop _ hin, ofbBlocks_getD _ _ (by rw [streamBlocks_length]; omega), streamBlocks_getD hin]
  rfl

/-- Settles O28: both commands run the loop over the counter, whose value `i` is inc128 iterated `i` times. -/
theorem ctrCountsItsNonces : Obligations.CtrCountsItsNonces := by
  intro s i₀ hi₀ hbuf hready hdst
  have hloop := ctrBlocks_lengths s.encrypt (ivBlock s)
  obtain ⟨t, ht, hdelivered⟩ : ∃ t, exec i₀ s = .next t ∧
      Delivered s t (streamOutput (ctrBlocks s.encrypt (ivBlock s)) (input s)) := by
    obtain rfl | rfl := hi₀
    · obtain ⟨t, ht, hdelivered, -⟩ := exec_encMode_stream (m := .ctr) rfl hbuf hready hdst
      exact ⟨t, ht, hdelivered⟩
    · exact exec_decMode_stream (m := .ctr) rfl hbuf hready hdst rfl
  refine ⟨t, _, fun i => inc128^[i] (ivBlock s), ht, hdelivered, by rw [streamOutput_length _ hloop, input_length],
    rfl, fun i => Function.iterate_succ_apply' inc128 i (ivBlock s), fun i hi => ?_⟩
  have hin : 16 * i < (input s).length := by rwa [input_length]
  rw [blk_streamOutput hloop _ hin, ctrBlocks_getD _ _ (by rw [streamBlocks_length]; omega), streamBlocks_getD hin]
  rfl

end Sys2Proof.Machine
end

section
/-!
Decrypting what was encrypted (45_modes.md R295, R296). On the blocks each loop of a decryption undoes its encryption's;
on the machine, an encryption that completed leaves its output where the premises of its decryption hold.
-/

namespace Sys2Proof.Machine

open Sys2Proof.Claim

/-! ### The loops undo each other -/

section
variable {e d : Block → Block} (hde : ∀ b, d (e b) = b)
include hde

theorem cbcDecrypt_cbcEncrypt (prev : Block) (bs : List Block) : cbcDecrypt d prev (cbcEncrypt e prev bs) = bs := by
  induction bs generalizing prev with
  | nil => rfl
  | cons b bs ih => simp [cbcEncrypt, cbcDecrypt, hde, ih]

theorem pcbcDecrypt_pcbcEncrypt (prevC prevP : Block) (bs : List Block) :
    pcbcDecrypt d prevC prevP (pcbcEncrypt e prevC prevP bs) = bs := by
  induction bs generalizing prevC prevP with
  | nil => rfl
  | cons b bs ih =>
    have hb : (((b.xor prevC).xor prevP).xor prevC).xor prevP = b := by
      rw [Block.xor_assoc (b.xor prevC), Block.xor_comm prevP, ← Block.xor_assoc, Block.xor_self_right,
        Block.xor_self_right]
    simp [pcbcEncrypt, pcbcDecrypt, hde, ih, hb]

end

/-- The keystream added twice is gone (45_modes.md R283). -/
theorem xorPrefix_xorPrefix {x : List Byte} (h : x.length ≤ 16) (k : Block) : xorPrefix (xorPrefix x k) k = x := by
  have hlen := xorPrefix_length h k
  refine List.ext_getElem (by rw [xorPrefix_length (by omega), hlen]) fun i hi _ => ?_
  simp [xorPrefix, xorBytes]

section
variable (e : Block → Block) (b : Block) {xs : List (List Byte)} (h : ∀ x ∈ xs, x.length ≤ 16)
include h

theorem cfbDecrypt_cfbEncrypt : cfbDecrypt e b (cfbEncrypt e b xs) = xs := by
  induction xs generalizing b with
  | nil => rfl
  | cons x xs ih =>
    obtain ⟨hx, hxs⟩ := List.forall_mem_cons.mp h
    simp [cfbEncrypt, cfbDecrypt, xorPrefix_xorPrefix hx, ih _ hxs]

theorem ofbBlocks_ofbBlocks : ofbBlocks e b (ofbBlocks e b xs) = xs := by
  induction xs generalizing b with
  | nil => rfl
  | cons x xs ih =>
    obtain ⟨hx, hxs⟩ := List.forall_mem_cons.mp h
    simp [ofbBlocks, xorPrefix_xorPrefix hx, ih _ hxs]

theorem ctrBlocks_ctrBlocks : ctrBlocks e b (ctrBlocks e b xs) = xs := by
  induction xs generalizing b with
  | nil => rfl
  | cons x xs ih =>
    obtain ⟨hx, hxs⟩ := List.forall_mem_cons.mp h
    simp [ctrBlocks, xorPrefix_xorPrefix hx, ih _ hxs]

end

/-! ### The outputs undo each other -/

theorem unpaddedOutput_paddedOutput {enc dec : List Block → List Block} (h : ∀ bs, dec (enc bs) = bs) (d : List Byte) :
    unpaddedOutput dec (paddedOutput enc d) = some d := by
  rw [unpaddedOutput, paddedOutput, fullBlocks_blockBytes, h, blockBytes_fullBlocks (padData_length_mod d),
    unpadData_padData]

theorem streamOutput_streamOutput {enc dec : List (List Byte) → List (List Byte)}
    (hlen : ∀ n d, (enc (splitBlocks n d)).map List.length = (splitBlocks n d).map List.length)
    (h : ∀ xs, (∀ x ∈ xs, x.length ≤ 16) → dec (enc xs) = xs) (d : List Byte) :
    streamOutput dec (streamOutput enc d) = d := by
  have hblocks : dec (enc (streamBlocks d)) = streamBlocks d := h _ fun x hx => splitBlocks_block_length hx
  rw [streamOutput, streamBlocks_streamOutput hlen, hblocks, streamBlocks_flatten]

/-- In every mode decryption undoes encryption (45_modes.md R295). -/
theorem decOutput_encOutput (m : ChainMode) {e d : Block → Block} (hde : ∀ b, d (e b) = b) (iv : Block)
    (x : List Byte) : decOutput m e d iv (encOutput m e iv x) = some x := by
  cases m
  · exact unpaddedOutput_paddedOutput (cbcDecrypt_cbcEncrypt hde iv) x
  · exact unpaddedOutput_paddedOutput (pcbcDecrypt_pcbcEncrypt hde iv .zero) x
  · exact congrArg some (streamOutput_streamOutput (cfbEncrypt_lengths e iv) (fun _ => cfbDecrypt_cfbEncrypt e iv) x)
  · exact congrArg some (streamOutput_streamOutput (ofbBlocks_lengths e iv) (fun _ => ofbBlocks_ofbBlocks e iv) x)
  · exact congrArg some (streamOutput_streamOutput (ctrBlocks_lengths e iv) (fun _ => ctrBlocks_ctrBlocks e iv) x)

/-! ### Commands that completed -/

/-- A data command that completed passed its checks and committed its output (60_exceptions.md R334). -/
theorem runDataCommand_completed {i : Instr} {err : Option ErrCode} {out : Option (List Byte)} {s t : State}
    (h : runDataCommand i err out s = .next t) (ht : t.status.err = false) :
    err = none ∧ ∃ bytes, out = some bytes ∧ t = (s.commitOutput bytes).complete := by
  obtain ⟨bytes, herr, hout, rfl⟩ | ⟨c, -, rfl⟩ | ⟨-, -, rfl⟩ := runDataCommand_cases h
  · exact ⟨herr, bytes, hout, rfl⟩
  · simp at ht
  · simp at ht

/-- An encryption that completed had its premises, and committed its output (45_modes.md R281, R284). -/
theorem encMode_completed {m : ChainMode} {s t : State} (h : exec (encMode m) s = .next t) (ht : t.status.err = false) :
    ModeReady s ∧ InBuf s s.dstAddr (encOutput m s.encrypt (ivBlock s) (input s)).length ∧
      t = (s.commitOutput (encOutput m s.encrypt (ivBlock s) (input s))).complete := by
  rw [exec_encMode] at h
  obtain ⟨herr, out, hout, rfl⟩ := runDataCommand_completed h ht
  obtain ⟨hready, hdst⟩ := encErrors_eq_none.mp herr
  cases hout
  exact ⟨hready, hdst, rfl⟩

/-- A decryption that completed had its premises, and committed what unpad accepted (45_modes.md R281, R284). -/
theorem decMode_completed {m : ChainMode} {s t : State} (h : exec (decMode m) s = .next t) (ht : t.status.err = false) :
    InBuf s s.dstAddr s.srcLen.toNat ∧ (padsData m = true → s.srcLen.toNat ≠ 0 ∧ s.srcLen.toNat % 16 = 0) ∧
      ∃ out, decOutput m s.encrypt s.decrypt (ivBlock s) (input s) = some out ∧
        t = (s.commitOutput out).complete := by
  rw [exec_decMode] at h
  obtain ⟨herr, hout⟩ := runDataCommand_completed h ht
  obtain ⟨-, hdst, hlen⟩ := decErrors_eq_none.mp herr
  exact ⟨hdst, hlen, hout⟩

/-- OUT_LEN is the length of an output that fits in BUF (10_state.md R47). -/
theorem outLen_commitOutput {s : State} (hcfg : s.cfg.wf = true) {out : List Byte} (h : InBuf s s.dstAddr out.length) :
    (s.commitOutput out).complete.outLen.toNat = out.length := by
  have := bufSize_le_of_wf hcfg
  rw [State.complete_outLen, State.commitOutput_outLen, BitVec.toNat_ofNat, Nat.mod_eq_of_lt (by omega)]

/-- The output of a data command that fits in BUF, as OUT_LEN and DST_ADDR give it to the host (45_modes.md R284). -/
theorem memRead_outLen {s : State} (hcfg : s.cfg.wf = true) (hbuf : s.buf.wf) {out : List Byte}
    (h : InBuf s s.dstAddr out.length) :
    (s.commitOutput out).complete.memRead s.dstAddr.toNat (s.commitOutput out).complete.outLen.toNat = out := by
  rw [outLen_commitOutput hcfg h]
  exact memRead_commitOutput hbuf out

/-- What a padding mode delivers has the length that its decryption takes (45_modes.md R282). -/
theorem encOutput_length_of_pads {m : ChainMode} (hm : padsData m = true) (e : Block → Block) (iv : Block)
    (d : List Byte) : (encOutput m e iv d).length ≠ 0 ∧ (encOutput m e iv d).length % 16 = 0 := by
  obtain ⟨h1, -, hmod⟩ := padLen_spec d.length
  rw [encOutput_length, if_pos hm]
  exact ⟨by omega, hmod⟩

/-- The state in which the host has made the output of `t` the next input, and `d` the next DST_ADDR (30_encoding.md
R110). -/
def chainedTo (t : State) (d : Word) : State := { t with srcAddr := t.dstAddr, srcLen := t.outLen, dstAddr := d }

@[simp] theorem ivBlock_chainedTo (t : State) (d : Word) : ivBlock (chainedTo t d) = ivBlock t := rfl

/-- After an encryption that completed, its decryption with the same IV completes and commits the data (45_modes.md
R295). -/
theorem decMode_after_encMode {m : ChainMode} {s t : State} {d : Word} (hcfg : s.cfg.wf = true) (hbuf : s.buf.wf)
    (h : exec (encMode m) s = .next t) (ht : t.status.err = false)
    (hd : d.toNat + t.outLen.toNat ≤ s.cfg.bufSize) (hiv : ivBlock t = ivBlock s) :
    (chainedTo t d).buf.wf ∧
      exec (decMode m) (chainedTo t d) = .next ((chainedTo t d).commitOutput (input s)).complete := by
  obtain ⟨⟨hkey, hivLen, -, hivRegion⟩, hdst, rfl⟩ := encMode_completed h ht
  have hlen := outLen_commitOutput hcfg hdst
  refine ⟨Memory.wf_writeBytes hbuf _ _, exec_decMode_of_ready (s := chainedTo (s.commitOutput _).complete d)
    ⟨hkey, hivLen, ?_, hivRegion⟩ hd (fun hm => ?_) ?_⟩
  · exact hlen.symm ▸ hdst
  · exact hlen.symm ▸ encOutput_length_of_pads hm _ _ _
  · have hinput : input (chainedTo (s.commitOutput _).complete d) = encOutput m s.encrypt (ivBlock s) (input s) :=
      memRead_outLen hcfg hbuf hdst
    rw [hinput, ivBlock_chainedTo, hiv]
    exact decOutput_encOutput m (decryptBlock_encryptBlock s.rk s.rounds) _ _

/-- Settles O29: the decryption commits the data, and what an encryption commits is a function of the key slot, the IV
and the data. -/
theorem everyModeRoundTrips : Obligations.EveryModeRoundTrips := by
  refine ⟨fun m s t d hcfg hbuf h ht hd hiv => ?_,
    fun m s s' t t' hcfg hbuf hcfg' hbuf' h ht h' ht' hrk hnr _ hin hiv => ?_⟩
  · obtain ⟨hwf, hexec⟩ := decMode_after_encMode hcfg hbuf h ht hd hiv
    refine ⟨_, hexec, rfl, ?_, ?_⟩
    · rw [State.complete_outLen, State.commitOutput_outLen, input_length, BitVec.ofNat_toNat, BitVec.setWidth_eq]
    · rw [← input_length s]
      exact memRead_commitOutput hwf (input s)
  · obtain ⟨-, hdst, rfl⟩ := encMode_completed h ht
    obtain ⟨-, hdst', rfl⟩ := encMode_completed h' ht'
    have henc : s'.encrypt = s.encrypt := by
      funext b
      rw [State.encrypt, State.encrypt, State.rounds, State.rounds, hrk, hnr]
    rw [memRead_outLen hcfg hbuf hdst, memRead_outLen hcfg' hbuf' hdst', henc, hin, hiv]
    exact ⟨rfl, rfl⟩

/-! ### Tampering -/

theorem cbcDecrypt_append_singleton (d : Block → Block) (prev c : Block) (bs : List Block) :
    cbcDecrypt d prev (bs ++ [c]) = cbcDecrypt d prev bs ++ [(d c).xor (bs.getLastD prev)] := by
  induction bs generalizing prev with
  | nil => rfl
  | cons b bs ih => rw [List.cons_append, cbcDecrypt, ih, cbcDecrypt, List.cons_append, List.getLastD_cons]

theorem blockBytes_append_singleton (bs : List Block) (b : Block) :
    blockBytes (bs ++ [b]) = blockBytes bs ++ b.toBytes := by
  simp [blockBytes]

/-- Whole blocks of data and one more (45_modes.md R280). -/
theorem fullBlocks_append_toBytes {front : List Byte} (h : front.length % 16 = 0) (c : Block) :
    fullBlocks (front ++ c.toBytes) = fullBlocks front ++ [c] := by
  conv_lhs => rw [← blockBytes_fullBlocks h, ← blockBytes_append_singleton, fullBlocks_blockBytes]

theorem Block.toBytes_injective : Function.Injective Block.toBytes :=
  Function.LeftInverse.injective blockOf_toBytes

/-- Data of one length from which unpad gives the same are the same (44_padding.md R261). -/
theorem eq_of_unpadData_eq {q q' y : List Byte} (hlen : q.length = q'.length) (h : unpadData q = some y)
    (h' : unpadData q' = some y) : q = q' := by
  obtain ⟨k, -, -, rfl⟩ := unpadData_eq_some_iff.mp h
  obtain ⟨k', -, -, rfl⟩ := unpadData_eq_some_iff.mp h'
  have hk : k = k' := by simpa using hlen
  rw [hk]

/-- CBC decryption tells apart data that differ in the final block (45_modes.md R296). -/
theorem unpaddedOutput_cbcDecrypt_ne {d : Block → Block} (hd : Function.Injective d) {iv c c' : Block}
    {front y y' : List Byte} (hfront : front.length % 16 = 0) (hne : c ≠ c')
    (h : unpaddedOutput (cbcDecrypt d iv) (front ++ c.toBytes) = some y)
    (h' : unpaddedOutput (cbcDecrypt d iv) (front ++ c'.toBytes) = some y') : y' ≠ y := by
  rintro rfl
  rw [unpaddedOutput, fullBlocks_append_toBytes hfront, cbcDecrypt_append_singleton, blockBytes_append_singleton]
    at h h'
  have hbytes := List.append_cancel_left (eq_of_unpadData_eq (by simp) h h')
  have hxor := Block.toBytes_injective hbytes
  refine hne (hd ?_)
  rw [← Block.xor_self_right (d c) _, hxor, Block.xor_self_right]

theorem decryptBlock_injective (rk : RoundKeys) (nr : Nat) : Function.Injective (decryptBlock rk nr) :=
  Function.LeftInverse.injective (encryptBlock_decryptBlock rk nr)

/-- What unpad accepted is no longer than the input (20_memory.md R75). -/
theorem decOutput_cbc_length_le {e d : Block → Block} {iv : Block} {c y : List Byte}
    (h : decOutput .cbc e d iv c = some y) : y.length ≤ c.length :=
  unpaddedOutput_length _ (cbcDecrypt_length d iv) h

/-- Settles O30: with one previous block and D injective the final blocks stay different, and with them what unpad
leaves of the whole. -/
theorem cbcTamperingNeverGivesTheOriginal : Obligations.CbcTamperingNeverGivesTheOriginal := by
  intro s s' t t' front c c' hcfg hbuf hbuf' hcfgEq hrk hnr hiv hin hin' hne h ht h' ht'
  obtain ⟨hdst, hlen, y, hy, rfl⟩ := decMode_completed (m := .cbc) h ht
  obtain ⟨hdst', -, y', hy', rfl⟩ := decMode_completed (m := .cbc) h' ht'
  have hfit : InBuf s s.dstAddr y.length := by
    have := decOutput_cbc_length_le hy
    rw [input_length] at this
    omega
  have hfit' : InBuf s' s'.dstAddr y'.length := by
    have := decOutput_cbc_length_le hy'
    rw [input_length] at this
    omega
  have hfront : front.length % 16 = 0 := by
    have hmod := (hlen rfl).2
    rw [← input_length, hin, List.length_append, Block.toBytes_length] at hmod
    omega
  have hdec : s'.decrypt = s.decrypt := by
    funext b
    rw [State.decrypt, State.decrypt, State.rounds, State.rounds, hrk, hnr]
  rw [memRead_outLen hcfg hbuf hfit, memRead_outLen (hcfgEq ▸ hcfg) hbuf' hfit']
  rw [hin] at hy
  rw [hin', hdec, hiv] at hy'
  exact unpaddedOutput_cbcDecrypt_ne (decryptBlock_injective s.rk s.rounds) hfront hne hy hy'

end Sys2Proof.Machine
end
